-- ==== Sys2Proof/Config.lean ====
section
/-! DEFINITION. The elaboration-time parameters of the block (R5, R6), their constraints and the derived widths (R7).
The machine's state carries one `Params` value that no operation writes, so a statement about every state is a statement about
every build of the block (assumption log 1). -/

namespace Sys2Proof

/-- The parameter table of R6. -/
structure Params where
  /-- `MAX_PAYLOAD`: the largest legal length byte and the size of `scratch`. -/
  maxPayload : Nat
  /-- `FIFO_DEPTH`: the number of slots of the ring. -/
  fifoDepth : Nat
  /-- `TIMEOUT`: the largest gap, in ticks, that is not stale. -/
  timeout : Nat
  /-- `TS_W`: the width in bits of a timestamp. -/
  tsW : Nat
  /-- `SYNC_STAGES`: flip-flop stages of a crossing. Timing only; no rule of the model depends on it (R6). -/
  syncStages : Nat
  deriving DecidableEq, Repr

namespace Params

/-- The constraints of R6: 1 ≤ MAX_PAYLOAD ≤ 255; FIFO_DEPTH a power of two, at least 2; 0 ≤ TIMEOUT ≤ 2^TS_W − 1; TS_W ≥ 1;
SYNC_STAGES ≥ 2. -/
abbrev ok (p : Params) : Prop :=
  1 ≤ p.maxPayload ∧ p.maxPayload ≤ 255 ∧ 2 ≤ p.fifoDepth ∧ 2 ^ Nat.log2 p.fifoDepth = p.fifoDepth ∧
    1 ≤ p.tsW ∧ p.timeout ≤ 2 ^ p.tsW - 1 ∧ 2 ≤ p.syncStages

/-- `LEN_W`: the number of bits needed to hold 0..MAX_PAYLOAD (R7), for MAX_PAYLOAD ≥ 1. -/
def lenW (p : Params) : Nat := Nat.log2 p.maxPayload + 1

/-- `ADDR_W` = log2(FIFO_DEPTH): the width of a ring index (R7). -/
def addrW (p : Params) : Nat := Nat.log2 p.fifoDepth

end Params

/-- A FREE VALUE: what LC_INC writes to `widx` when the register of LEN_W bits cannot hold `widx` + 1. R127 says the state machine
never asks for it and states no result (DESIGN CHOICE, log 9). It has no body: no proof can see what it is. -/
opaque Config.indexAfterTop : Nat → Nat

/-! ## The build of `State.reset`

R6 leaves FIFO_DEPTH, TIMEOUT and TS_W OPEN, so each comes from a FREE VALUE without a body (log 1). -/

/-- A FREE VALUE: the exponent of FIFO_DEPTH, less 1 (R6: OPEN). -/
opaque Config.depthExponent : Nat

/-- A FREE VALUE: TS_W, less 1 (R6: OPEN). -/
opaque Config.timestampBits : Nat

/-- A FREE VALUE: TIMEOUT, before it is reduced to TS_W bits (R6: OPEN). -/
opaque Config.timeoutTicks : Nat

/-- The build with R6's MAX_PAYLOAD = 32 and SYNC_STAGES = 2, FIFO_DEPTH = 2^(e+1), TS_W = b + 1 and TIMEOUT = t mod 2^TS_W: as e, b
and t range, exactly the builds that R6's constraints allow (`Params.openBuild_ok`, `Params.openBuild_of_ok`). The depth is written as a
sum with 2 so that evaluating the model on an unknown e sees that it is at least 2. -/
def Params.openBuild (e b t : Nat) : Params where
  maxPayload := 32
  fifoDepth := (2 ^ (e + 1) - 2) + 2
  timeout := t % 2 ^ (b + 1)
  tsW := b + 1
  syncStages := 2

/-- The build that `State.reset` stands for: each OPEN parameter is free. -/
def Params.build : Params := Params.openBuild Config.depthExponent Config.timestampBits Config.timeoutTicks

end Sys2Proof
end

