-- ==== Sys2Proof/Word.lean ====
section
/-! DEFINITION. The byte, the two preamble constants and the five parse states. -/

namespace Sys2Proof

/-- A byte: 8 bits, bit 0 least significant, an unsigned number 0..255 (R9, R10). -/
abbrev Byte := BitVec 8

/-- `SYNC1` = 0xAA, the first preamble byte: a constant of the format (R8). -/
abbrev sync1 : Byte := 0xAA#8

/-- `SYNC2` = 0x55, the second preamble byte: a constant of the format (R8). -/
abbrev sync2 : Byte := 0x55#8

/-- The parse state `st`: one of five values (R30). The codes 5, 6, 7 name no state, so none is representable (R113, 93 U6). -/
inductive ParseState where
  | waitSync1
  | waitSync2
  | readLength
  | readPayload
  | readChecksum
  deriving DecidableEq, Repr

end Sys2Proof
end

