-- ==== Sys2Proof/Syntax.lean ====
section
/-! DEFINITION. The operations of the block, one constructor per row of spec/opcode_table.json (R110). -/

namespace Sys2Proof

/-- The 33 operations (R18: "instruction" reads as an operation of the block). An argument is an operand the rule gives the
operation: a byte, a timestamp `time_now`, or a number of places `k`. Bits of a key that the rule ignores are no operand
(log 20). -/
inductive Instr where
  /-- PUSH b (R181). -/
  | push (b : Byte)
  /-- WNOP (R182). -/
  | wnop
  /-- POP (R183). -/
  | pop
  /-- RNOP (R184). -/
  | rnop
  /-- SYNC_HEAD k (R185). -/
  | syncHead (k : Nat)
  /-- SYNC_TAIL k (R186). -/
  | syncTail (k : Nat)
  /-- HALTED (R205). -/
  | halted
  /-- STOP (R204). -/
  | stop
  /-- CONSUME, with `time_now` (R202). -/
  | consume (t : Nat)
  /-- CIDLE (R203). -/
  | cidle
  /-- RESET (R207). -/
  | reset
  /-- STALE_CLR (R152). -/
  | staleClr
  /-- WS1_HIT (R154). -/
  | ws1Hit
  /-- WS1_MISS, with the byte dropped (R155). -/
  | ws1Miss (b : Byte)
  /-- WS2_HIT (R156). -/
  | ws2Hit
  /-- WS2_MISS, with the byte dropped (R157). -/
  | ws2Miss (b : Byte)
  /-- LEN_OVER, with the oversized length byte (R158). -/
  | lenOver (b : Byte)
  /-- LEN_ZERO (R159). -/
  | lenZero
  /-- LEN_OK, with the length byte (R160). -/
  | lenOk (b : Byte)
  /-- PAY_LAST, with the last payload byte (R162). -/
  | payLast (b : Byte)
  /-- PAY_MORE, with a payload byte (R161). -/
  | payMore (b : Byte)
  /-- CHK_OK, with the matching checksum byte (R163). -/
  | chkOk (b : Byte)
  /-- CHK_BAD, with the checksum byte that does not match (R164). -/
  | chkBad (b : Byte)
  /-- CS_HOLD (R121). -/
  | csHold
  /-- CS_CLEAR (R122). -/
  | csClear
  /-- CS_SEED, with the byte on signal `byte` (R123). -/
  | csSeed (b : Byte)
  /-- CS_ADD, with the byte on signal `byte` (R124). -/
  | csAdd (b : Byte)
  /-- LC_HOLD (R128). -/
  | lcHold
  /-- LC_CLEAR (R129). -/
  | lcClear
  /-- LC_LOAD, with the byte on signal `byte` (R130). -/
  | lcLoad (b : Byte)
  /-- LC_INC (R131). -/
  | lcInc
  /-- WD_STAMP, with `time_now` (R143). -/
  | wdStamp (t : Nat)
  /-- WD_HOLD (R144). -/
  | wdHold
  deriving DecidableEq, Repr

end Sys2Proof
end

