-- ==== Sys2Proof/WellFormed.lean ====
section
/-! DEFINITION. When an operation's operands are ones its row of the table can carry, for given parameters. -/

namespace Sys2Proof

/-- The operands fit the operation: a DEC transition carries a byte its row is selected for (R154 to R160), and a timestamp fits
the TS_W wires of `time_now` (R21, R109), and a number of places is below FIFO_DEPTH, since no distance reaches it (R185, R186,
R29). Conditions on state (`widx`, `len`, `csum`, the distance of a view) are no part of the operation's form; they are in
`Conds` and in the meanings. -/
def wellFormed (p : Params) : Instr → Bool
  | .push _ | .wnop | .pop | .rnop => true
  | .syncHead k | .syncTail k => decide (k < p.fifoDepth)
  | .halted | .stop | .cidle | .reset | .staleClr => true
  | .consume t => decide (t < 2 ^ p.tsW)
  | .ws1Hit | .ws2Hit | .lenZero => true
  | .ws1Miss b => decide (b ≠ sync1)
  | .ws2Miss b => decide (b ≠ sync2)
  | .lenOver b => decide (p.maxPayload < b.toNat)
  | .lenOk b => decide (1 ≤ b.toNat) && decide (b.toNat ≤ p.maxPayload)
  | .payLast _ | .payMore _ | .chkOk _ | .chkBad _ => true
  | .csHold | .csClear | .csSeed _ | .csAdd _ => true
  | .lcHold | .lcClear | .lcLoad _ | .lcInc => true
  | .wdStamp t => decide (t < 2 ^ p.tsW)
  | .wdHold => true

end Sys2Proof
end

