-- ==== Sys2Proof/Decode.lean ====
section
/-! DEFINITION. The key of an operation (R97 to R106): the decoder from a key to an operation, total on any key and rejecting by
name, and the encoder back. A key is a number whose bit 0 is the least significant (R10, R110). -/

namespace Sys2Proof

/-- The two views a synchroniser step can move (R74): `head_seen` and `tail_seen`. -/
inductive View where
  | head
  | tail
  deriving DecidableEq, Repr

/-- The ten formats (R97 to R106). Format AUTO has an empty key; which of the two synchronisers acts is part of the format here
(log 24). -/
inductive Format where
  | wr
  | rd
  | con
  | dec
  | stl
  | cs
  | lc
  | wd
  | rst
  | auto (v : View)
  deriving DecidableEq, Repr

/-- One operation as it is presented to its module: the key of its format, and the operands that stand on signals outside the
key: `byte[7:0]` (R123, R124, R130), `time_now` (R143, R202), the places a view moves (R185, R186). -/
structure Drive where
  fmt : Format
  key : Nat
  byte : Byte := 0
  time : Nat := 0
  places : Nat := 0
  deriving DecidableEq, Repr

/-- The two conditions of format DEC that depend on state (R100): `lc_last` (`widx` + 1 = `len`) and `cs_match` (`byte` = `csum`). -/
structure Conds where
  lcLast : Bool
  csMatch : Bool
  deriving DecidableEq, Repr

/-- Why a key gives no operation. -/
inductive Reject where
  /-- A key with a bit set above its format's width. -/
  | keyTooWide
  /-- A DEC key whose `st` field is 5, 6 or 7 (R113, R166). -/
  | reservedState
  /-- Key 0 of format STL (R101) or key 1 of format RST (R105): it selects nothing. -/
  | selectsNothing
  deriving DecidableEq, Repr

/-- The eleven transitions of the byte dispatch (R153). -/
inductive Transition where
  | ws1Hit
  | ws1Miss
  | ws2Hit
  | ws2Miss
  | lenOver
  | lenZero
  | lenOk
  | payLast
  | payMore
  | chkOk
  | chkBad
  deriving DecidableEq, Repr

/-- The number of bits of a format's key (R97 to R106). -/
def Format.width : Format → Nat
  | .wr => 9
  | .rd => 1
  | .con => 3
  | .dec => 11
  | .stl => 1
  | .cs => 2
  | .lc => 2
  | .wd => 1
  | .rst => 1
  | .auto _ => 0

/-- The code of a parse state in `st[2:0]` (R96). -/
def ParseState.code : ParseState → Nat
  | .waitSync1 => 0
  | .waitSync2 => 1
  | .readLength => 2
  | .readPayload => 3
  | .readChecksum => 4

/-- The parse state of a code; none for 5, 6, 7 (R96, R113). -/
def ParseState.ofCode : Nat → Option ParseState
  | 0 => some .waitSync1
  | 1 => some .waitSync2
  | 2 => some .readLength
  | 3 => some .readPayload
  | 4 => some .readChecksum
  | _ => none

/-- The flag `lc_over` = (`byte` > MAX_PAYLOAD), unsigned (R45). -/
def lcOver (p : Params) (b : Byte) : Bool := decide (p.maxPayload < b.toNat)

/-- The flag `lc_zero` = (`byte` = 0) (R45). -/
def lcZero (b : Byte) : Bool := decide (b.toNat = 0)

/-- The byte dispatch (R100, R153): the rows of format DEC from the top, the first whose pattern and condition hold. -/
def selectTransition (p : Params) (c : Conds) (st : ParseState) (b : Byte) : Transition :=
  match st with
  | .waitSync1 => if b = sync1 then .ws1Hit else .ws1Miss
  | .waitSync2 => if b = sync2 then .ws2Hit else .ws2Miss
  | .readLength => if lcOver p b then .lenOver else if lcZero b then .lenZero else .lenOk
  | .readPayload => if c.lcLast then .payLast else .payMore
  | .readChecksum => if c.csMatch then .chkOk else .chkBad

/-- The operation of a transition on byte `b`. -/
def Transition.toInstr (x : Transition) (b : Byte) : Instr :=
  match x with
  | .ws1Hit => .ws1Hit
  | .ws1Miss => .ws1Miss b
  | .ws2Hit => .ws2Hit
  | .ws2Miss => .ws2Miss b
  | .lenOver => .lenOver b
  | .lenZero => .lenZero
  | .lenOk => .lenOk b
  | .payLast => .payLast b
  | .payMore => .payMore b
  | .chkOk => .chkOk b
  | .chkBad => .chkBad b

/-- Format WR: key[8:0] = {`wr_valid`, `wr_data[7:0]`} (R97). -/
def decodeWr (key : Nat) : Instr := if key / 256 = 1 then .push (BitVec.ofNat 8 key) else .wnop

/-- Format RD: key[0] = `rd_pop` (R98). -/
def decodeRd (key : Nat) : Instr := if key = 1 then .pop else .rnop

/-- Format CON: key[2:0] = {`halted`, `stop_req`, `rd_empty`}, first match (R99). -/
def decodeCon (key time : Nat) : Instr :=
  if key / 4 = 1 then .halted
  else if key / 2 % 2 = 1 then .stop
  else if key % 2 = 0 then .consume time
  else .cidle

/-- Format DEC: key[10:0] = {`st[2:0]`, `byte[7:0]`} (R100). -/
def decodeDec (p : Params) (c : Conds) (key : Nat) : Except Reject Instr :=
  match ParseState.ofCode (key / 256) with
  | some st => .ok ((selectTransition p c st (BitVec.ofNat 8 key)).toInstr (BitVec.ofNat 8 key))
  | none => .error .reservedState

/-- Format STL: key[0] = `stale` (R101). -/
def decodeStl (key : Nat) : Except Reject Instr := if key = 1 then .ok .staleClr else .error .selectsNothing

/-- Format CS: key[1:0] = `cs_op[1:0]` (R102). -/
def decodeCs (key : Nat) (b : Byte) : Instr :=
  match key with
  | 0 => .csHold
  | 1 => .csClear
  | 2 => .csSeed b
  | _ => .csAdd b

/-- Format LC: key[1:0] = `lc_op[1:0]` (R103). -/
def decodeLc (key : Nat) (b : Byte) : Instr :=
  match key with
  | 0 => .lcHold
  | 1 => .lcClear
  | 2 => .lcLoad b
  | _ => .lcInc

/-- Format WD: key[0] = `wd_stamp` (R104). -/
def decodeWd (key time : Nat) : Instr := if key = 1 then .wdStamp time else .wdHold

/-- Format RST: key[0] = `rst_n`; key 0 selects RESET, key 1 nothing (R105). -/
def decodeRst (key : Nat) : Except Reject Instr := if key = 0 then .ok .reset else .error .selectsNothing

/-- Format AUTO: no key; the operand is the number of places the hardware chose (R106, R185, R186). -/
def decodeAuto (v : View) (k : Nat) : Instr :=
  match v with
  | .head => .syncHead k
  | .tail => .syncTail k

/-- The decoder: the operation a drive selects (R110), for the parameters `p` and the state conditions `c`. -/
def decode (p : Params) (c : Conds) (d : Drive) : Except Reject Instr :=
  if d.key < 2 ^ d.fmt.width then
    match d.fmt with
    | .wr => .ok (decodeWr d.key)
    | .rd => .ok (decodeRd d.key)
    | .con => .ok (decodeCon d.key d.time)
    | .dec => decodeDec p c d.key
    | .stl => decodeStl d.key
    | .cs => .ok (decodeCs d.key d.byte)
    | .lc => .ok (decodeLc d.key d.byte)
    | .wd => .ok (decodeWd d.key d.time)
    | .rst => decodeRst d.key
    | .auto v => .ok (decodeAuto v d.places)
  else .error .keyTooWide

/-- The encoder: the key and the operand signals that select an operation. Bits the rule ignores are 0. -/
def encode : Instr → Drive
  | .push b => { fmt := .wr, key := 256 + b.toNat }
  | .wnop => { fmt := .wr, key := 0 }
  | .pop => { fmt := .rd, key := 1 }
  | .rnop => { fmt := .rd, key := 0 }
  | .syncHead k => { fmt := .auto .head, key := 0, places := k }
  | .syncTail k => { fmt := .auto .tail, key := 0, places := k }
  | .halted => { fmt := .con, key := 4 }
  | .stop => { fmt := .con, key := 2 }
  | .consume t => { fmt := .con, key := 0, time := t }
  | .cidle => { fmt := .con, key := 1 }
  | .reset => { fmt := .rst, key := 0 }
  | .staleClr => { fmt := .stl, key := 1 }
  | .ws1Hit => { fmt := .dec, key := sync1.toNat }
  | .ws1Miss b => { fmt := .dec, key := b.toNat }
  | .ws2Hit => { fmt := .dec, key := 256 + sync2.toNat }
  | .ws2Miss b => { fmt := .dec, key := 256 + b.toNat }
  | .lenOver b => { fmt := .dec, key := 512 + b.toNat }
  | .lenZero => { fmt := .dec, key := 512 }
  | .lenOk b => { fmt := .dec, key := 512 + b.toNat }
  | .payLast b => { fmt := .dec, key := 768 + b.toNat }
  | .payMore b => { fmt := .dec, key := 768 + b.toNat }
  | .chkOk b => { fmt := .dec, key := 1024 + b.toNat }
  | .chkBad b => { fmt := .dec, key := 1024 + b.toNat }
  | .csHold => { fmt := .cs, key := 0 }
  | .csClear => { fmt := .cs, key := 1 }
  | .csSeed b => { fmt := .cs, key := 2, byte := b }
  | .csAdd b => { fmt := .cs, key := 3, byte := b }
  | .lcHold => { fmt := .lc, key := 0 }
  | .lcClear => { fmt := .lc, key := 1 }
  | .lcLoad b => { fmt := .lc, key := 2, byte := b }
  | .lcInc => { fmt := .lc, key := 3 }
  | .wdStamp t => { fmt := .wd, key := 1, time := t }
  | .wdHold => { fmt := .wd, key := 0 }

/-- The condition beside an operation's row of format DEC (R100), as a test of the state conditions. -/
def Conds.admits (c : Conds) : Instr → Bool
  | .payLast _ => c.lcLast
  | .payMore _ => !c.lcLast
  | .chkOk _ => c.csMatch
  | .chkBad _ => !c.csMatch
  | _ => true

/-- `mask` and `match` of an operation's row in spec/opcode_table.json: the row applies when (key AND mask) = match (R110). -/
def tableRow : Instr → Nat × Nat
  | .push _ => (0x100, 0x100)
  | .wnop => (0x100, 0x0)
  | .pop => (0x1, 0x1)
  | .rnop => (0x1, 0x0)
  | .syncHead _ => (0x0, 0x0)
  | .syncTail _ => (0x0, 0x0)
  | .halted => (0x4, 0x4)
  | .stop => (0x6, 0x2)
  | .consume _ => (0x7, 0x0)
  | .cidle => (0x7, 0x1)
  | .reset => (0x1, 0x0)
  | .staleClr => (0x1, 0x1)
  | .ws1Hit => (0x7FF, 0xAA)
  | .ws1Miss _ => (0x700, 0x0)
  | .ws2Hit => (0x7FF, 0x155)
  | .ws2Miss _ => (0x700, 0x100)
  | .lenOver _ => (0x700, 0x200)
  | .lenZero => (0x7FF, 0x200)
  | .lenOk _ => (0x700, 0x200)
  | .payLast _ => (0x700, 0x300)
  | .payMore _ => (0x700, 0x300)
  | .chkOk _ => (0x700, 0x400)
  | .chkBad _ => (0x700, 0x400)
  | .csHold => (0x3, 0x0)
  | .csClear => (0x3, 0x1)
  | .csSeed _ => (0x3, 0x2)
  | .csAdd _ => (0x3, 0x3)
  | .lcHold => (0x3, 0x0)
  | .lcClear => (0x3, 0x1)
  | .lcLoad _ => (0x3, 0x2)
  | .lcInc => (0x3, 0x3)
  | .wdStamp _ => (0x1, 0x1)
  | .wdHold => (0x1, 0x0)

/-- The format in which a bare table word is read. A word of the table does not say its format, and the keys of different formats
overlap, so an order is fixed (DESIGN CHOICE, log 14): no bits is AUTO; up to one byte is RD for 0 and 1, CS for 2 and 3, CON
above; two bytes are DEC for the two words whose DEC row fixes every bit, WR for the other 9-bit words, DEC above. -/
def tableFormat (nbits w : Nat) : Option Format :=
  if nbits = 0 then some (.auto .head)
  else if nbits ≤ 8 then
    if w < 2 then some .rd else if w < 4 then some .cs else if w < 8 then some .con else none
  else if w = 0xAA ∨ w = 0x155 then some .dec
  else if w < 0x200 then some .wr
  else if w < 0x800 then some .dec
  else none

/-- The state conditions a bare DEC word is read under: those of the state `withFetchWord` prepares (a payload byte that is not
the last; `csum` = 0) (log 15). -/
def tableConds (w : Nat) : Conds := { lcLast := false, csMatch := decide (w % 256 = 0) }

/-- The operation the decoder reads from an opcode-table word, in the format of `tableFormat` and for the parameters of
`State.reset`. -/
def decodeTableWord (nbits w : Nat) : Option Instr :=
  match tableFormat nbits w with
  | none => none
  | some f =>
    match decode Params.build (tableConds w) { fmt := f, key := w } with
    | .ok i => some i
    | .error _ => none

end Sys2Proof
end

