-- ==== Sys2Proof/Machine/State.lean ====
section
/-! DEFINITION. The state of the machine (R24 to R41), its observation (R15, R53), the moves its environment will make (R13, R47),
the reasons a step can stop, and the state after reset (R50, R51). -/

namespace Sys2Proof.Machine

/-- A byte array as the list of the bytes that hold a value, by strictly rising index. An index that is not listed holds no
value: nothing has written it since reset (R51, 93 U4). -/
abbrev Memory := List Host.Cell

/-- The three storage arrays of R60. -/
inductive Space where
  | fifoMem
  | scratch
  | framePayload
  deriving DecidableEq, Repr

/-- A frame as it is emitted: (length, payload bytes 0..length−1) (R53). -/
structure Frame where
  len : Nat
  payload : List Byte
  deriving DecidableEq, Repr

/-- The answer to a submitted byte (R20, R181): `Accepted` or `Rejected(ChannelFull)`. -/
inductive Answer where
  | accepted
  | rejectedChannelFull
  deriving DecidableEq, Repr

/-- One submission and its answer, as the producer sees it (R15). -/
structure Submission where
  byte : Byte
  answer : Answer
  deriving DecidableEq, Repr

/-- One move of one agent, with the values on the pins it drives (R13). `wr`, `rd`, `sync` and `rst` are the moves of the wired
block; the others drive one module alone at its command port, as the spec's module vectors do (log 3). -/
inductive Event where
  /-- A rising edge of `wr_clk` with `wr_valid` and `wr_data` (R20). -/
  | wr (valid : Bool) (data : Byte)
  /-- A rising edge of `rd_clk` with `stop_req` and `time_now` (R21). -/
  | rd (stopReq : Bool) (timeNow : Nat)
  /-- A synchroniser step, moving the view by `places` (R75). -/
  | sync (v : View) (places : Nat)
  /-- The reset pin `rst_n`, asserted when false (R22). -/
  | rst (rstN : Bool)
  /-- The FIFO's read port alone, with `rd_pop` (R98). -/
  | rdPort (rdPop : Bool)
  /-- The staleness step of a feed alone, at `time_now` (R101). -/
  | stl (timeNow : Nat)
  /-- The byte dispatch of a feed alone (R100). -/
  | dec (byte : Byte)
  /-- A command of checksum_accumulator: `cs_op` and `byte` (R102). -/
  | cs (op : BitVec 2) (byte : Byte)
  /-- A command of frame_length_counter: `lc_op` and `byte` (R103). -/
  | lc (op : BitVec 2) (byte : Byte)
  /-- A command of timeout_watchdog: `wd_stamp` and `time_now` (R104). -/
  | wd (stamp : Bool) (timeNow : Nat)
  deriving DecidableEq, Repr

/-- The state of the block. Ring indices, lengths and times are naturals that the operations keep within their registers' widths
by an explicit modulo (R61, R127, R141; log 9). -/
structure State where
  /-- The parameters of the build: no operation writes them (R5, R264). -/
  cfg : Params
  /-- `fifo_mem` (R24). -/
  fifoMem : Memory
  /-- `head` (R25). -/
  head : Nat
  /-- `tail` (R26). -/
  tail : Nat
  /-- `head_seen` (R27). -/
  headSeen : Nat
  /-- `tail_seen` (R28). -/
  tailSeen : Nat
  /-- `st` (R30). -/
  st : ParseState
  /-- `len` (R31). -/
  len : Nat
  /-- `widx` (R32). -/
  widx : Nat
  /-- `csum` (R33). -/
  csum : Byte
  /-- `scratch` (R34). -/
  scratch : Memory
  /-- `last_ts` (R35). -/
  lastTs : Nat
  /-- `frame_valid` (R38). -/
  frameValid : Bool
  /-- `frame_len` (R39). -/
  frameLen : Nat
  /-- `frame_payload` (R40). -/
  framePayload : Memory
  /-- `halted` (R41). -/
  halted : Bool
  /-- `frames_out`: every frame emitted since reset, in order; the observation, not hardware state (R53). -/
  framesOut : List Frame
  /-- Every submission since reset with its answer, in order; the observation of R15, not hardware state (log 8). -/
  submissions : List Submission
  /-- The result of every POP since reset, in order; the results of R183, not hardware state (log 8). -/
  pops : List (Option Byte)
  /-- The moves still to come, the next one first: inputs, never written by an operation (R47, log 2). -/
  agenda : List Event
  deriving DecidableEq, Repr

/-- Why the machine stops. The hardware never does (R230, R240); these mark reads and writes the spec gives no value. -/
inductive Fault where
  /-- A read of a byte that no operation has written since reset (93 U4: "fault"). Raised by POP, CONSUME and CHK_OK, only in
  states that break the invariant of Safety.lean. Safe: the hardware would go on with a value the spec does not give. -/
  | unwrittenByte (a : Space)
  /-- An access to a byte outside the array (R60 gives the sizes). Raised by PUSH, POP, CONSUME, PAY_MORE, PAY_LAST and CHK_OK,
  only in states that break the invariant of Safety.lean. Safe. -/
  | noSuchByte (a : Space)
  deriving DecidableEq, Repr

/-- Why there is no meaning. -/
inductive Refusal where
  /-- An operation that has no meaning yet, by its mnemonic. Raised by exec's arms only. Safe. -/
  | notModelled (mnemonic : String)
  /-- SYNC_HEAD or SYNC_TAIL by more places than the distance of the view to its index: R185 and R186 give the hardware the choice
  of 0 ≤ k ≤ dist only. Raised by those two operations. Safe. -/
  | viewPastIndex
  /-- A key that no row of the table has (R113, R166). Raised by the step; the keys it assembles never are one. Safe. -/
  | noSuchKey
  deriving DecidableEq, Repr

/-- The outcome of an operation on the machine. -/
abbrev Result := Host.Outcome State Fault Refusal

/-- The state after reset of a build with parameters `p` and an environment that will make the moves `agenda` (R50, R51, R53). -/
def State.resetWith (p : Params) (agenda : List Event) : State :=
  { cfg := p
    fifoMem := []
    head := 0
    tail := 0
    headSeen := 0
    tailSeen := 0
    st := .waitSync1
    len := 0
    widx := 0
    csum := 0
    scratch := []
    lastTs := 0
    frameValid := false
    frameLen := 0
    framePayload := []
    halted := false
    framesOut := []
    submissions := []
    pops := []
    agenda := agenda }

/-- The machine right after reset: the build whose OPEN parameters are free values (R6, log 1), with nothing in the agenda (log 2). -/
def State.reset : State := State.resetWith Params.build []

end Sys2Proof.Machine
end

