-- ==== Sys2Proof/Machine/Operands.lean ====
section
/-! DEFINITION. The operand forms (R107 to R109, R185, R186), the index arithmetic of the ring (R11, R61, R188), and the checksum
of a list of bytes (R92). -/

namespace Sys2Proof.Machine

/-- The length operand as it is stored: `trunc_LEN_W(byte)` (R107, R130). -/
def lengthOperand (p : Params) (b : Byte) : Nat := b.toNat % 2 ^ p.lenW

/-- The time operand: the TS_W bits of `time_now` (R109). -/
def timeOperand (p : Params) (t : Nat) : Nat := t % 2 ^ p.tsW

/-- The ring index after `i`: (i + 1) mod FIFO_DEPTH (R61). -/
def nextIndex (p : Params) (i : Nat) : Nat := (i + 1) % p.fifoDepth

/-- `dist(a, b)` = (b − a) mod FIFO_DEPTH: how far index `b` is ahead of index `a` round the ring (R11). -/
def ringDist (p : Params) (a b : Nat) : Nat := (b + p.fifoDepth - a) % p.fifoDepth

/-- The index `k` places after `i` round the ring (R185, R186). -/
def forward (p : Params) (i k : Nat) : Nat := (i + k) % p.fifoDepth

/-- The write index after LC_INC (R131): one more; where the LEN_W bits of the register (R32) do not hold that, a free value of
LEN_W bits (R127, log 9). -/
def nextWidx (p : Params) (w : Nat) : Nat :=
  if w + 1 < 2 ^ p.lenW then w + 1 else Config.indexAfterTop w % 2 ^ p.lenW

/-- The checksum of a length and payload bytes: (length + sum of the bytes) mod 256 (R92, R120). -/
def checksumOf (n : Nat) (bytes : List Byte) : Byte := BitVec.ofNat 8 (n + (bytes.map BitVec.toNat).sum)

end Sys2Proof.Machine
end

