-- ==== Sys2Proof/Machine/Flags.lean ====
section
/-! DEFINITION. Every flag (R42 to R46): a function of state and inputs, none stored. -/

namespace Sys2Proof.Machine

/-- `wr_full` = 1 exactly when (`head` + 1) mod FIFO_DEPTH = `tail_seen` (R42). -/
def wrFull (s : State) : Bool := decide (nextIndex s.cfg s.head = s.tailSeen)

/-- `rd_empty` = 1 exactly when `tail` = `head_seen` (R43). -/
def rdEmpty (s : State) : Bool := decide (s.tail = s.headSeen)

/-- The gap the watchdog measures: (`time_now` − `last_ts`) mod 2^TS_W, borrow discarded (R141). -/
def timeGap (s : State) (t : Nat) : Nat :=
  (timeOperand s.cfg t + 2 ^ s.cfg.tsW - s.lastTs) % 2 ^ s.cfg.tsW

/-- `stale` = 1 exactly when the gap exceeds TIMEOUT, strictly (R44, R141). -/
def stale (s : State) (t : Nat) : Bool := decide (s.cfg.timeout < timeGap s t)

/-- `lc_last` = 1 exactly when `widx` + 1 = `len`, on naturals (R45, R127). -/
def lcLast (s : State) : Bool := decide (s.widx + 1 = s.len)

/-- `cs_match` = 1 exactly when `byte` = `csum` (R46). -/
def csMatch (s : State) (b : Byte) : Bool := decide (b = s.csum)

/-- The state conditions of a DEC key with byte `b` (R100). -/
def condsOf (s : State) (b : Byte) : Conds := { lcLast := lcLast s, csMatch := csMatch s b }

/-- The occupancy dist(`tail`, `head`): bytes pushed and not yet popped (R17). -/
def occupancy (s : State) : Nat := ringDist s.cfg s.tail s.head

end Sys2Proof.Machine
end

