-- ==== Sys2Proof/Machine/Ops.lean ====
section
/-! DEFINITION. The shared operations over the arrays and the registers, the recovery from an error condition (the block's
counterpart of taking an exception), and the emit of a frame. -/

namespace Sys2Proof.Machine

/-! ## Byte arrays -/

/-- `MemRead`: the byte at index `i`, none where no operation has written it since reset (R11, R51). -/
def memRead : Memory → Nat → Option Byte
  | [], _ => none
  | (j, v) :: m, i => if j = i then some v else memRead m i

/-- `MemWrite`: byte `v` at index `i`, keeping the indices strictly rising (R11). -/
def memWrite : Memory → Nat → Byte → Memory
  | [], i, v => [(i, v)]
  | (j, w) :: m, i, v =>
    if i < j then (i, v) :: (j, w) :: m
    else if i = j then (i, v) :: m
    else (j, w) :: memWrite m i v

/-- Every index of the list is above `lo` and they rise strictly. -/
def Memory.risingFrom : Nat → Memory → Bool
  | _, [] => true
  | lo, (j, _) :: m => decide (lo ≤ j) && Memory.risingFrom (j + 1) m

/-- The canonical form: indices strictly rising. What an unlisted index reads as is no value, so no entry can equal it. -/
def Memory.wf (m : Memory) : Bool := Memory.risingFrom 0 m

/-- Every listed index lies in an array of `n` bytes. -/
def Memory.within (n : Nat) (m : Memory) : Bool := m.all fun c => decide (c.1 < n)

/-- Bytes 0..n−1 of an array, none if one of them holds no value. -/
def firstBytes (m : Memory) : Nat → Option (List Byte)
  | 0 => some []
  | n + 1 =>
    match firstBytes m n, memRead m n with
    | some bs, some b => some (bs ++ [b])
    | _, _ => none

/-! ## Register updates, one per group of registers that one rule writes -/

/-- An accepted PUSH: slot and index in one step (R69). -/
def State.withFifo (s : State) (m : Memory) (h : Nat) : State := { s with fifoMem := m, head := h }
/-- `tail <- i` (R183). -/
def State.withTail (s : State) (i : Nat) : State := { s with tail := i }
/-- `head_seen <- i` (R185). -/
def State.withHeadSeen (s : State) (i : Nat) : State := { s with headSeen := i }
/-- `tail_seen <- i` (R186). -/
def State.withTailSeen (s : State) (i : Nat) : State := { s with tailSeen := i }
/-- `st <- x` (R11). -/
def State.withSt (s : State) (x : ParseState) : State := { s with st := x }
/-- `csum <- v` (R121 to R124). -/
def State.withCsum (s : State) (v : Byte) : State := { s with csum := v }
/-- `len <- n; widx <- w` (R129 to R131). -/
def State.withLength (s : State) (n w : Nat) : State := { s with len := n, widx := w }
/-- `scratch` written (R161, R162). -/
def State.withScratch (s : State) (m : Memory) : State := { s with scratch := m }
/-- `last_ts <- t` (R143). -/
def State.withLastTs (s : State) (t : Nat) : State := { s with lastTs := t }
/-- `frame_valid <- b` (R202 to R205). -/
def State.withFrameValid (s : State) (b : Bool) : State := { s with frameValid := b }
/-- The four writes of EMIT (R206). -/
def State.withFrame (s : State) (n : Nat) (m : Memory) (f : Frame) : State :=
  { s with frameLen := n, framePayload := m, frameValid := true, framesOut := s.framesOut ++ [f] }
/-- `halted <- b` (R204). -/
def State.withHalted (s : State) (b : Bool) : State := { s with halted := b }
/-- The answer to a submission is recorded in the observation (R15). -/
def State.withAnswer (s : State) (b : Byte) (a : Answer) : State :=
  { s with submissions := s.submissions ++ [⟨b, a⟩] }
/-- The result of a POP is recorded in the observation (R183). -/
def State.withPopResult (s : State) (r : Option Byte) : State := { s with pops := s.pops ++ [r] }
/-- What the environment will do next. -/
def State.withAgenda (s : State) (l : List Event) : State := { s with agenda := l }

/-! ## Sequence, recovery, emit -/

/-- `a; then b` (R11): `b` reads what `a` wrote; a stop of `a` is the stop of the whole. -/
def andThen (r : Result) (f : State → Result) : Result :=
  match r with
  | .next s => f s
  | .fault e => .fault e
  | .refused e => .refused e

/-- CS_CLEAR as a write (R122). -/
def clearSum (s : State) : State := s.withCsum 0

/-- CS_SEED as a write (R123). -/
def seedSum (b : Byte) (s : State) : State := s.withCsum b

/-- CS_ADD as a write: (csum + byte) mod 256, carry discarded (R124, R120). -/
def addSum (b : Byte) (s : State) : State := s.withCsum (s.csum + b)

/-- LC_CLEAR as a write (R129). -/
def clearLength (s : State) : State := s.withLength 0 0

/-- LC_LOAD as a write (R130). -/
def loadLength (b : Byte) (s : State) : State := s.withLength (lengthOperand s.cfg b) 0

/-- LC_INC as a write (R131). -/
def incIndex (s : State) : State := s.withLength s.len (nextWidx s.cfg s.widx)

/-- WD_STAMP as a write (R143). -/
def stampTime (t : Nat) (s : State) : State := s.withLastTs (timeOperand s.cfg t)

/-- `decoder_clear()`: CS_CLEAR, LC_CLEAR and `st <- WAIT_SYNC1` together; `scratch`, `last_ts`, the frame output and the FIFO are
not touched (R151). -/
def decoderClear (s : State) : State := (clearLength (clearSum s)).withSt .waitSync1

/-- The five error conditions (R230). They have no codes and none is recorded. -/
inductive Condition where
  | syncLost
  | oversizedLength
  | checksumMismatch
  | stale
  | channelFull
  deriving DecidableEq, Repr

/-- Taking an error condition (R240, R11 `recover`): for the decoder's conditions `decoder_clear()` and nothing else, nothing
saved, nothing signalled; ChannelFull changes no state of the block (R235). There is no return from one (R241): the next operation
is an ordinary one. -/
def recover (c : Condition) (s : State) : State :=
  match c with
  | .syncLost | .oversizedLength | .checksumMismatch | .stale => decoderClear s
  | .channelFull => s

/-- EMIT, the output action of CHK_OK (R206): the whole of `scratch` is copied, and the frame (len, scratch[0..len−1]) is appended
to the trace. The trace reads the frame's bytes, so each of them must hold a value (93 U4). -/
def emit (s : State) : Result :=
  if s.len ≤ s.cfg.maxPayload then
    match firstBytes s.scratch s.len with
    | some bs => .next (s.withFrame s.len s.scratch ⟨s.len, bs⟩)
    | none => .fault (.unwrittenByte .scratch)
  else .fault (.noSuchByte .scratch)

/-- `MemWrite(scratch, widx, b)`: the store of signal `scratch_we` (R23), at `widx` as it is before the edge (R133). -/
def storeScratch (b : Byte) (s : State) : Result :=
  if s.widx < s.cfg.maxPayload then .next (s.withScratch (memWrite s.scratch s.widx b))
  else .fault (.noSuchByte .scratch)

/-- A payload byte: `MemWrite(scratch, widx, b); csum <- (csum + b) mod 256; widx <- widx + 1`, at one edge (R133, R161, R162). -/
def storePayload (b : Byte) (s : State) : Result :=
  andThen (storeScratch b s) fun s' => .next (incIndex (addSum b s'))

/-- The byte of a FIFO slot (R183). -/
def slotByte (s : State) (i : Nat) : Except Fault Byte :=
  if i < s.cfg.fifoDepth then
    match memRead s.fifoMem i with
    | some v => .ok v
    | none => .error (.unwrittenByte .fifoMem)
  else .error (.noSuchByte .fifoMem)

/-- POP (R183): None when `rd_empty`, else the byte at `tail` and `tail` advanced, in one step (R69). -/
def popByte (s : State) : Except Fault (Option Byte × State) :=
  if rdEmpty s then .ok (none, s.withPopResult none)
  else
    match slotByte s s.tail with
    | .ok v => .ok (some v, (s.withTail (nextIndex s.cfg s.tail)).withPopResult (some v))
    | .error e => .error e

/-- PUSH b (R181): Rejected(ChannelFull) with nothing written when `wr_full`, else the byte stored at `head` and `head` advanced,
in one step (R69). -/
def pushByte (b : Byte) (s : State) : Result :=
  if wrFull s then .next ((recover .channelFull s).withAnswer b .rejectedChannelFull)
  else if s.head < s.cfg.fifoDepth then
    .next ((s.withFifo (memWrite s.fifoMem s.head b) (nextIndex s.cfg s.head)).withAnswer b .accepted)
  else .fault (.noSuchByte .fifoMem)

end Sys2Proof.Machine
end

