-- ==== Sys2Proof/Machine/Fifo.lean ====
section
/-! DEFINITION. bounded_async_fifo (43_bounded_async_fifo.md): PUSH, WNOP, POP, RNOP, SYNC_HEAD, SYNC_TAIL. -/

namespace Sys2Proof.Machine

/-- PUSH b (R181). -/
def execPush (b : Byte) (s : State) : Result := pushByte b s

/-- WNOP: nothing is written (R182). -/
def execWnop (s : State) : Result := .next s

/-- POP (R183). -/
def execPop (s : State) : Result :=
  match popByte s with
  | .ok (_, s') => .next s'
  | .error e => .fault e

/-- RNOP: nothing is written (R184). -/
def execRnop (s : State) : Result := .next s

/-- SYNC_HEAD k: `head_seen` moves forward by k of 0..dist(`head_seen`, `head`) places (R185). A larger k is no choice the
hardware has (log 5). -/
def execSyncHead (k : Nat) (s : State) : Result :=
  if k ≤ ringDist s.cfg s.headSeen s.head then .next (s.withHeadSeen (forward s.cfg s.headSeen k))
  else .refused .viewPastIndex

/-- SYNC_TAIL k: `tail_seen` moves forward by k of 0..dist(`tail_seen`, `tail`) places (R186). A larger k is no choice the
hardware has (log 5). -/
def execSyncTail (k : Nat) (s : State) : Result :=
  if k ≤ ringDist s.cfg s.tailSeen s.tail then .next (s.withTailSeen (forward s.cfg s.tailSeen k))
  else .refused .viewPastIndex

end Sys2Proof.Machine
end

