-- ==== Sys2Proof/Machine/Datapath.lean ====
section
/-! DEFINITION. checksum_accumulator and frame_length_counter (40_checksum_and_length.md) and timeout_watchdog
(41_timeout_watchdog.md): the commands CS_*, LC_*, WD_*. -/

namespace Sys2Proof.Machine

/-- CS_HOLD (R121). -/
def execCsHold (s : State) : Result := .next s

/-- CS_CLEAR (R122). -/
def execCsClear (s : State) : Result := .next (clearSum s)

/-- CS_SEED (R123). -/
def execCsSeed (b : Byte) (s : State) : Result := .next (seedSum b s)

/-- CS_ADD (R124). -/
def execCsAdd (b : Byte) (s : State) : Result := .next (addSum b s)

/-- LC_HOLD (R128). -/
def execLcHold (s : State) : Result := .next s

/-- LC_CLEAR (R129). -/
def execLcClear (s : State) : Result := .next (clearLength s)

/-- LC_LOAD (R130). -/
def execLcLoad (b : Byte) (s : State) : Result := .next (loadLength b s)

/-- LC_INC (R131). -/
def execLcInc (s : State) : Result := .next (incIndex s)

/-- WD_STAMP (R143). -/
def execWdStamp (t : Nat) (s : State) : Result := .next (stampTime t s)

/-- WD_HOLD (R144). -/
def execWdHold (s : State) : Result := .next s

end Sys2Proof.Machine
end

