-- ==== Sys2Proof/Machine/Fsm.lean ====
section
/-! DEFINITION. deserializer_fsm (42_deserializer_fsm.md): the staleness step, the eleven transitions, and FEED. A transition is the
third part of a feed (R150): the stamp of the second part is WD_STAMP and stands in `feed` (log 11). -/

namespace Sys2Proof.Machine

/-- STALE_CLR: the condition Stale (R152, R234). -/
def execStaleClr (s : State) : Result := .next (recover .stale s)

/-- WS1_HIT: `st <- WAIT_SYNC2` (R154). -/
def execWs1Hit (s : State) : Result := .next (s.withSt .waitSync2)

/-- WS1_MISS: the byte is dropped; nothing is written, `st` stays (R155, R231). -/
def execWs1Miss (_b : Byte) (s : State) : Result := .next s

/-- WS2_HIT: `st <- READ_LENGTH` (R156). -/
def execWs2Hit (s : State) : Result := .next (s.withSt .readLength)

/-- WS2_MISS: the byte is dropped, 0xAA included; `st <- WAIT_SYNC1` (R157, R231). -/
def execWs2Miss (_b : Byte) (s : State) : Result := .next (s.withSt .waitSync1)

/-- LEN_OVER: the condition OversizedLength (R158, R232). -/
def execLenOver (_b : Byte) (s : State) : Result := .next (recover .oversizedLength s)

/-- LEN_ZERO: `len <- 0; widx <- 0; csum <- 0x00; st <- READ_CHECKSUM` (R159). -/
def execLenZero (s : State) : Result := .next ((loadLength 0 (seedSum 0 s)).withSt .readChecksum)

/-- LEN_OK: `len <- trunc_LEN_W(b); widx <- 0; csum <- b; st <- READ_PAYLOAD` (R160). -/
def execLenOk (b : Byte) (s : State) : Result := .next ((loadLength b (seedSum b s)).withSt .readPayload)

/-- PAY_MORE: the byte is stored; `st` stays (R161). -/
def execPayMore (b : Byte) (s : State) : Result := storePayload b s

/-- PAY_LAST: the byte is stored, `st <- READ_CHECKSUM` (R162). -/
def execPayLast (b : Byte) (s : State) : Result :=
  andThen (storePayload b s) fun s' => .next (s'.withSt .readChecksum)

/-- CHK_OK: the frame is emitted from `len` and `scratch` as they are before the clear; then `decoder_clear()` (R163). -/
def execChkOk (_b : Byte) (s : State) : Result := andThen (emit s) fun s' => .next (decoderClear s')

/-- CHK_BAD: the condition ChecksumMismatch (R164, R233). -/
def execChkBad (_b : Byte) (s : State) : Result := .next (recover .checksumMismatch s)

/-- A transition on byte `b` (R153). -/
def runTransition (x : Transition) (b : Byte) (s : State) : Result :=
  match x with
  | .ws1Hit => execWs1Hit s
  | .ws1Miss => execWs1Miss b s
  | .ws2Hit => execWs2Hit s
  | .ws2Miss => execWs2Miss b s
  | .lenOver => execLenOver b s
  | .lenZero => execLenZero s
  | .lenOk => execLenOk b s
  | .payLast => execPayLast b s
  | .payMore => execPayMore b s
  | .chkOk => execChkOk b s
  | .chkBad => execChkBad b s

/-- The transition that byte `b` selects in state `s` (R100). -/
def selected (s : State) (b : Byte) : Transition := selectTransition s.cfg (condsOf s b) s.st b

/-- The dispatch of a feed: exactly one transition (R150). -/
def dispatch (b : Byte) (s : State) : Result := runTransition (selected s b) b s

/-- The staleness step of a feed (R101, R150). -/
def staleStep (t : Nat) (s : State) : Result := if stale s t then execStaleClr s else .next s

/-- FEED(b, t) (R150): the staleness step; then the stamp; then the dispatch. -/
def feed (b : Byte) (t : Nat) (s : State) : Result :=
  andThen (andThen (staleStep t s) (execWdStamp t)) (dispatch b)

end Sys2Proof.Machine
end

