-- ==== Sys2Proof/Machine/Top.lean ====
section
/-! DEFINITION. The top level (44_frame_synchronizer.md): CONSUME, CIDLE, STOP, HALTED, RESET. -/

namespace Sys2Proof.Machine

/-- CONSUME (R202): POP, then FEED of the byte at `time_now`; `frame_valid` is 1 after it exactly when the feed emitted a frame, so
it is written 0 first and EMIT writes it 1 (R206). A POP that returns None feeds nothing: selected, CONSUME never meets one
(log 12). -/
def execConsume (t : Nat) (s : State) : Result :=
  match popByte s with
  | .ok (some b, s') => feed b t (s'.withFrameValid false)
  | .ok (none, s') => .next (s'.withFrameValid false)
  | .error e => .fault e

/-- CIDLE: `frame_valid <- 0`, nothing else (R203). -/
def execCidle (s : State) : Result := .next (s.withFrameValid false)

/-- STOP: `halted <- 1; frame_valid <- 0`; no pop, no feed (R204). -/
def execStop (s : State) : Result := .next ((s.withHalted true).withFrameValid false)

/-- HALTED: `frame_valid <- 0`, nothing else (R205). -/
def execHalted (s : State) : Result := .next (s.withFrameValid false)

/-- RESET: every register takes its value of R50, the traces become empty, and the arrays hold no value any more (R207, R51). The
parameters and the environment's coming moves are no registers and stay. -/
def execReset (s : State) : Result := .next (State.resetWith s.cfg s.agenda)

end Sys2Proof.Machine
end

