-- ==== Sys2Proof/Machine/Dispatch.lean ====
section
/-! DEFINITION. The meaning of every operation, one arm each. -/

namespace Sys2Proof.Machine

/-- The effect of an operation on the machine (R110). -/
def exec (i : Instr) (s : State) : Host.Outcome State Fault Refusal :=
  match i with
  -- bounded_async_fifo
  | .push b => Sys2Proof.Machine.execPush b s
  | .wnop => Sys2Proof.Machine.execWnop s
  | .pop => Sys2Proof.Machine.execPop s
  | .rnop => Sys2Proof.Machine.execRnop s
  | .syncHead k => Sys2Proof.Machine.execSyncHead k s
  | .syncTail k => Sys2Proof.Machine.execSyncTail k s
  -- frame_synchronizer
  | .halted => Sys2Proof.Machine.execHalted s
  | .stop => Sys2Proof.Machine.execStop s
  | .consume t => Sys2Proof.Machine.execConsume t s
  | .cidle => Sys2Proof.Machine.execCidle s
  | .reset => Sys2Proof.Machine.execReset s
  -- deserializer_fsm
  | .staleClr => Sys2Proof.Machine.execStaleClr s
  | .ws1Hit => Sys2Proof.Machine.execWs1Hit s
  | .ws1Miss b => Sys2Proof.Machine.execWs1Miss b s
  | .ws2Hit => Sys2Proof.Machine.execWs2Hit s
  | .ws2Miss b => Sys2Proof.Machine.execWs2Miss b s
  | .lenOver b => Sys2Proof.Machine.execLenOver b s
  | .lenZero => Sys2Proof.Machine.execLenZero s
  | .lenOk b => Sys2Proof.Machine.execLenOk b s
  | .payLast b => Sys2Proof.Machine.execPayLast b s
  | .payMore b => Sys2Proof.Machine.execPayMore b s
  | .chkOk b => Sys2Proof.Machine.execChkOk b s
  | .chkBad b => Sys2Proof.Machine.execChkBad b s
  -- checksum_accumulator
  | .csHold => Sys2Proof.Machine.execCsHold s
  | .csClear => Sys2Proof.Machine.execCsClear s
  | .csSeed b => Sys2Proof.Machine.execCsSeed b s
  | .csAdd b => Sys2Proof.Machine.execCsAdd b s
  -- frame_length_counter
  | .lcHold => Sys2Proof.Machine.execLcHold s
  | .lcClear => Sys2Proof.Machine.execLcClear s
  | .lcLoad b => Sys2Proof.Machine.execLcLoad b s
  | .lcInc => Sys2Proof.Machine.execLcInc s
  -- timeout_watchdog
  | .wdStamp t => Sys2Proof.Machine.execWdStamp t s
  | .wdHold => Sys2Proof.Machine.execWdHold s

end Sys2Proof.Machine
end

