-- ==== Sys2Proof/Machine/Fetch.lean ====
section
/-! DEFINITION. From a move of an agent to the operation it selects: the key is assembled from the pins, the flags and the state
(R97 to R106), and decoded. -/

namespace Sys2Proof.Machine

/-- The drive of a move: its format and the key, assembled field by field, most significant first. -/
def driveOf (s : State) : Event → Drive
  | .wr valid data => { fmt := .wr, key := valid.toNat * 256 + data.toNat }
  | .rd stopReq t =>
    { fmt := .con, key := s.halted.toNat * 4 + stopReq.toNat * 2 + (rdEmpty s).toNat, time := t }
  | .sync v k => { fmt := .auto v, key := 0, places := k }
  | .rst rstN => { fmt := .rst, key := rstN.toNat }
  | .rdPort rdPop => { fmt := .rd, key := rdPop.toNat }
  | .stl t => { fmt := .stl, key := (stale s t).toNat }
  | .dec b => { fmt := .dec, key := s.st.code * 256 + b.toNat }
  | .cs op b => { fmt := .cs, key := op.toNat, byte := b }
  | .lc op b => { fmt := .lc, key := op.toNat, byte := b }
  | .wd stamp t => { fmt := .wd, key := stamp.toNat, time := t }

/-- The byte fed by a move of format DEC; no other format reads the state conditions. -/
def fedByte : Event → Byte
  | .dec b => b
  | _ => 0

/-- The operation a move selects in a state. -/
def fetch (s : State) (e : Event) : Except Reject Instr := decode s.cfg (condsOf s (fedByte e)) (driveOf s e)

/-- A move whose key selects nothing (`stale` = 0, R101; `rst_n` = 1, R105) changes nothing. A key with no row is refused; no key
that `driveOf` assembles is one. -/
def withoutOperation (r : Reject) (s : State) : Result :=
  match r with
  | .selectsNothing => .next s
  | .keyTooWide | .reservedState => .refused .noSuchKey

/-- The move that presents a bare table word in its format (log 15). -/
def wordEvent (f : Format) (w : Nat) : Event :=
  match f with
  | .wr => .wr (decide (w / 256 = 1)) (BitVec.ofNat 8 w)
  | .rd => .rdPort (decide (w = 1))
  | .con => .rd (decide (w / 2 % 2 = 1)) 0
  | .dec => .dec (BitVec.ofNat 8 w)
  | .stl => .stl 0
  | .cs => .cs (BitVec.ofNat 2 w) 0
  | .lc => .lc (BitVec.ofNat 2 w) 0
  | .wd => .wd (decide (w = 1)) 0
  | .rst => .rst (decide (w = 1))
  | .auto v => .sync v 0

/-- The state fields that a bare table word's key states, set as the key says (log 15): for CON the bit `halted`; for DEC the
parse state, with the decoder's registers as a frame attempt has them there: in READ_PAYLOAD the first of two payload bytes, in
READ_CHECKSUM an empty payload. -/
def wordState (f : Format) (w : Nat) (s : State) : State :=
  match f with
  | .con => s.withHalted (decide (w / 4 = 1))
  | .dec =>
    match ParseState.ofCode (w / 256) with
    | some .readPayload => ((s.withSt .readPayload).withLength 2 0).withCsum 2
    | some x => ((s.withSt x).withLength 0 0).withCsum 0
    | none => s
  | .wr | .rd | .stl | .cs | .lc | .wd | .rst | .auto _ => s

end Sys2Proof.Machine
end

