-- ==== Sys2Proof/Machine/Step.lean ====
section
/-! DEFINITION. One step: the next move of the agenda is taken, and the operation it selects is run. -/

namespace Sys2Proof.Machine

/-- One step (R13, R208). With nothing in the agenda no agent moves and nothing changes (log 2). -/
def step (s : State) : Host.Outcome State Fault Refusal :=
  match s.agenda with
  | [] => .next s
  | e :: rest =>
    match fetch (s.withAgenda rest) e with
    | .ok i => exec i (s.withAgenda rest)
    | .error r => withoutOperation r (s.withAgenda rest)

/-- The state in which a bare word of the opcode table is the very next move (log 15). A word with no format changes nothing. -/
def State.withFetchWord (s : State) (nbits w : Nat) : State :=
  match tableFormat nbits w with
  | none => s
  | some f => (wordState f w s).withAgenda (wordEvent f w :: s.agenda)

end Sys2Proof.Machine
end

