-- ==== Sys2Proof/Machine/Control.lean ====
section
/-! DEFINITION. The decoder as hardware: the output signals of deserializer_fsm (R23, R165) and one clock edge of the datapath they
drive. The meanings of Fsm.lean do not use it; an obligation states that the two agree. -/

namespace Sys2Proof.Machine

/-- The outputs of `deserializer_fsm` in a cycle (R23, R165). -/
structure Controls where
  nextSt : ParseState
  csOp : BitVec 2
  lcOp : BitVec 2
  scratchWe : Bool
  emits : Bool
  wdStamp : Bool
  deriving DecidableEq, Repr

/-- The table of R165, for a cycle with `byte_valid` = 1 and `stale` = 0. -/
def controlTable : Transition → Controls
  | .ws1Hit => ⟨.waitSync2, 0b00, 0b00, false, false, true⟩
  | .ws1Miss => ⟨.waitSync1, 0b00, 0b00, false, false, true⟩
  | .ws2Hit => ⟨.readLength, 0b00, 0b00, false, false, true⟩
  | .ws2Miss => ⟨.waitSync1, 0b00, 0b00, false, false, true⟩
  | .lenOver => ⟨.waitSync1, 0b01, 0b01, false, false, true⟩
  | .lenZero => ⟨.readChecksum, 0b10, 0b10, false, false, true⟩
  | .lenOk => ⟨.readPayload, 0b10, 0b10, false, false, true⟩
  | .payMore => ⟨.readPayload, 0b11, 0b11, true, false, true⟩
  | .payLast => ⟨.readChecksum, 0b11, 0b11, true, false, true⟩
  | .chkOk => ⟨.waitSync1, 0b01, 0b01, false, true, true⟩
  | .chkBad => ⟨.waitSync1, 0b01, 0b01, false, false, true⟩

/-- The outputs in a cycle (R165, R152): with `byte_valid` = 0 every command is a hold; with a stale byte the clear merged with
WS1_HIT or WS1_MISS. -/
def controls (s : State) (byteValid : Bool) (b : Byte) (t : Nat) : Controls :=
  if byteValid then
    if stale s t then ⟨if b = sync1 then .waitSync2 else .waitSync1, 0b01, 0b01, false, false, true⟩
    else controlTable (selected s b)
  else ⟨s.st, 0b00, 0b00, false, false, false⟩

/-- What a `cs_op` code does to `csum` (R102, R121 to R124). -/
def sumCommand (op : BitVec 2) (b : Byte) (s : State) : State :=
  if op = 0b00#2 then s else if op = 0b01#2 then clearSum s else if op = 0b10#2 then seedSum b s else addSum b s

/-- What an `lc_op` code does to `len` and `widx` (R103, R128 to R131). -/
def lengthCommand (op : BitVec 2) (b : Byte) (s : State) : State :=
  if op = 0b00#2 then s else if op = 0b01#2 then clearLength s else if op = 0b10#2 then loadLength b s else incIndex s

/-- One `rd_clk` edge of the decoder's datapath under given control signals: every module takes its command from the values of
before the edge (R11); they write different registers. -/
def clockEdge (c : Controls) (b : Byte) (t : Nat) (s : State) : Result :=
  andThen (if c.emits then emit s else .next s) fun s₁ =>
    andThen (if c.scratchWe then storeScratch b s₁ else .next s₁) fun s₂ =>
      let s₃ := lengthCommand c.lcOp b (sumCommand c.csOp b s₂)
      .next ((if c.wdStamp then stampTime t s₃ else s₃).withSt c.nextSt)

/-- The signal `rd_pop` = `byte_valid` of the top level (R200). -/
def byteValid (s : State) (stopReq : Bool) : Bool := !s.halted && !stopReq && !rdEmpty s

end Sys2Proof.Machine
end

