-- ==== Sys2Proof/Machine/Fairness.lean ====
section
/-! DEFINITION. Infinite runs of the block and the weak fairness of its synchronisers (R79): a step that would move a view the whole
distance to its index is never postponed for ever. A run is an infinite sequence of moves with the states they pass through; it is no
part of State, whose agenda is a finite stretch of such a sequence. -/

namespace Sys2Proof.Machine

/-- An infinite run: move n, taken alone in state n, gives state n + 1. -/
def IsRun (moves : Nat → Event) (r : Nat → State) : Prop :=
  ∀ n, step ((r n).withAgenda [moves n]) = .next (r (n + 1))

/-- The distance of a view to its index: the largest choice of its synchroniser (R185, R186). -/
def viewDistance (s : State) : View → Nat
  | .head => ringDist s.cfg s.headSeen s.head
  | .tail => ringDist s.cfg s.tailSeen s.tail

/-- The index that a view follows (R27, R28). -/
def viewedIndex (s : State) : View → Nat
  | .head => s.head
  | .tail => s.tail

/-- Weak fairness of one synchroniser (R79): the step that would move its view the whole distance to where its index stands is not
postponed for ever while it can be taken. At every moment there is a later one at which that step is taken, or the view has nothing
left to catch up, or the index has moved on, so that the step of the whole distance is another one. -/
def FairSync (v : View) (moves : Nat → Event) (r : Nat → State) : Prop :=
  ∀ n, ∃ m, n ≤ m ∧ (moves m = .sync v (viewDistance (r m) v) ∨ viewDistance (r m) v = 0 ∨
    viewedIndex (r m) v ≠ viewedIndex (r n) v)

/-- A run on which both views catch up in the end (R79, D12: "unbounded but fair"). -/
def Fair (moves : Nat → Event) (r : Nat → State) : Prop :=
  FairSync .head moves r ∧ FairSync .tail moves r

end Sys2Proof.Machine
end

