-- ==== Sys2Proof/Machine/Gray.lean ====
section
/-! DEFINITION. The Gray code in which an index crosses between the clock domains (R187). No operation uses it: R185 and R186
contain every behaviour it can produce. -/

namespace Sys2Proof.Machine

/-- g = x XOR (x >> 1) (R187). -/
def gray (x : Nat) : Nat := x ^^^ (x >>> 1)

/-- The conversion back to binary of a `w`-bit Gray code (R187): XOR of all right shifts below `w`. -/
def grayToBinary : Nat → Nat → Nat
  | 0, _ => 0
  | w + 1, g => g ^^^ grayToBinary w (g >>> 1)

/-- A sample taken while a register changes from `x` to `y`: each bit is the old or the new one (R187). -/
def SampleBetween (x y m : Nat) : Prop := ∀ j, m.testBit j = x.testBit j ∨ m.testBit j = y.testBit j

end Sys2Proof.Machine
end

