-- ==== Sys2Proof/Machine/Runs.lean ====
section
/-! DEFINITION. Sequences of operations, and the frame on the wire (R90), in which the rules about whole frames and whole
submissions are stated. -/

namespace Sys2Proof.Machine

/-- Operations in order, each on the state the one before left. -/
def execAll : List Instr → State → Result
  | [], s => .next s
  | i :: l, s => andThen (exec i s) (execAll l)

/-- Feeds in order, each a byte with its time (R116). -/
def feeds : List (Byte × Nat) → State → Result
  | [], s => .next s
  | (b, t) :: l, s => andThen (feed b t s) (feeds l)

/-- A frame on the wire with length byte `payload.length` and checksum byte `c`: sync1, sync2, length, payload, checksum (R90). -/
def wireFrame (payload : List Byte) (c : Byte) : List Byte :=
  sync1 :: sync2 :: BitVec.ofNat 8 payload.length :: (payload ++ [c])

/-- No gap between consecutive times exceeds TIMEOUT, by the watchdog's measure (R141, R167). -/
def noStaleGap (p : Params) : List Nat → Prop
  | t :: u :: l =>
    (timeOperand p u + 2 ^ p.tsW - timeOperand p t) % 2 ^ p.tsW ≤ p.timeout ∧ noStaleGap p (u :: l)
  | _ => True

/-- The row of a transition in the table of R153, read on a state and a byte: when R154 to R164 call it selected. -/
def rowHolds (s : State) (b : Byte) : Transition → Prop
  | .ws1Hit => s.st = .waitSync1 ∧ b = 0xAA#8
  | .ws1Miss => s.st = .waitSync1 ∧ b ≠ 0xAA#8
  | .ws2Hit => s.st = .waitSync2 ∧ b = 0x55#8
  | .ws2Miss => s.st = .waitSync2 ∧ b ≠ 0x55#8
  | .lenOver => s.st = .readLength ∧ b.toNat > s.cfg.maxPayload
  | .lenZero => s.st = .readLength ∧ b.toNat = 0
  | .lenOk => s.st = .readLength ∧ 1 ≤ b.toNat ∧ b.toNat ≤ s.cfg.maxPayload
  | .payMore => s.st = .readPayload ∧ s.widx + 1 < s.len
  | .payLast => s.st = .readPayload ∧ s.widx + 1 = s.len
  | .chkOk => s.st = .readChecksum ∧ b = s.csum
  | .chkBad => s.st = .readChecksum ∧ b ≠ s.csum

end Sys2Proof.Machine
end

