-- ==== Sys2Proof/Machine/Outputs.lean ====
section
/-! DEFINITION. What the block shows on its output ports (R15, R20, R21), and the packing of the payload port (R65). -/

namespace Sys2Proof.Machine

/-- The signal `rd_data` = MemRead(fifo_mem, tail); it means something only when `rd_empty` = 0 (R23, R183). -/
def rdData (s : State) : Option Byte := memRead s.fifoMem s.tail

/-- The frame the sink may take: `frame_len` and the first `frame_len` bytes of `frame_payload` (R206, R212). Bytes above it are not
read (93 U3). None before the first frame that has a byte the copy did not write. -/
def frameOut (s : State) : Option Frame :=
  match firstBytes s.framePayload s.frameLen with
  | some bs => some ⟨s.frameLen, bs⟩
  | none => none

/-- A list of bytes on a bus: byte i at bits [8i+7:8i], byte 0 least significant (R65). -/
def busValue : List Byte → Nat
  | [] => 0
  | b :: bs => b.toNat + 256 * busValue bs

/-- `frame_payload[8n−1:0]`, none if one of its bytes holds no value (R65). -/
def payloadBits (s : State) (n : Nat) : Option Nat :=
  match firstBytes s.framePayload n with
  | some bs => some (busValue bs)
  | none => none

/-- The output ports (R20, R21), with `frame_payload` read as the sink may read it. -/
structure Ports where
  wrFull : Bool
  halted : Bool
  frameValid : Bool
  frameLen : Nat
  frame : Option Frame
  deriving DecidableEq, Repr

/-- The output ports in a state; no other output exists (R15, R248). -/
def ports (s : State) : Ports :=
  { wrFull := wrFull s
    halted := s.halted
    frameValid := s.frameValid
    frameLen := s.frameLen
    frame := frameOut s }

end Sys2Proof.Machine
end

