-- ==== Sys2Proof/Safety.lean ====
section
/-! DEFINITION. What a safe state and a safe run are: the invariants of R29, R36, R37, R126, R190, the moves of the wired block, and
quiescence (R213). All are decidable. -/

namespace Sys2Proof.Machine

/-- The ring invariant (R29): the four indices are in range, and going forward from `tail_seen` one meets `tail`, then `head_seen`,
then `head`, within FIFO_DEPTH − 1 places. -/
abbrev RingInv (s : State) : Prop :=
  s.head < s.cfg.fifoDepth ∧ s.tail < s.cfg.fifoDepth ∧ s.headSeen < s.cfg.fifoDepth ∧ s.tailSeen < s.cfg.fifoDepth ∧
    ringDist s.cfg s.tailSeen s.tail + ringDist s.cfg s.tail s.headSeen + ringDist s.cfg s.headSeen s.head
      = ringDist s.cfg s.tailSeen s.head ∧
    ringDist s.cfg s.tailSeen s.head ≤ s.cfg.fifoDepth - 1

/-- What the slots from `tail` up to but not including `head` hold, oldest first (R29). -/
def contents (s : State) : List (Option Byte) :=
  (List.range (occupancy s)).map fun i => memRead s.fifoMem (forward s.cfg s.tail i)

/-- The accepted bytes of a list of submissions, in order. -/
def acceptedBytes (l : List Submission) : List Byte :=
  l.filterMap fun x => if x.answer = .accepted then some x.byte else none

/-- The bytes that a list of POP results returned, in order. -/
def poppedBytes (l : List (Option Byte)) : List Byte := l.filterMap id

/-- First in, first out (R80, R190): the accepted bytes are the popped bytes followed by what the ring holds; so every occupied
slot holds a value. -/
abbrev FifoInv (s : State) : Prop :=
  (acceptedBytes s.submissions).map some = (poppedBytes s.pops).map some ++ contents s

/-- The three arrays are in canonical form and inside their sizes (R60). -/
abbrev MemInv (s : State) : Prop :=
  Memory.wf s.fifoMem = true ∧ Memory.wf s.scratch = true ∧ Memory.wf s.framePayload = true ∧
    Memory.within s.cfg.fifoDepth s.fifoMem = true ∧ Memory.within s.cfg.maxPayload s.scratch = true ∧
    Memory.within s.cfg.maxPayload s.framePayload = true

/-- Every register fits its width (R30 to R39). -/
abbrev WidthInv (s : State) : Prop :=
  s.len < 2 ^ s.cfg.lenW ∧ s.widx < 2 ^ s.cfg.lenW ∧ s.frameLen ≤ s.cfg.maxPayload ∧ s.lastTs < 2 ^ s.cfg.tsW

/-- The frame registers are the last element of the trace (93 U7), every frame of the trace has exactly `len` ≤ MAX_PAYLOAD bytes
(R16), and there is no pulse and no length before the first frame (R38, R39). -/
abbrev FrameInv (s : State) : Prop :=
  (∀ f ∈ s.framesOut, f.payload.length = f.len ∧ f.len ≤ s.cfg.maxPayload) ∧
    (s.framesOut ≠ [] → frameOut s = s.framesOut.getLast?) ∧
    (s.framesOut = [] → s.frameLen = 0 ∧ s.frameValid = false)

/-- The part of the invariant that every move keeps, a module driven alone included. -/
abbrev BaseInv (s : State) : Prop :=
  s.cfg.ok ∧ RingInv s ∧ FifoInv s ∧ MemInv s ∧ WidthInv s ∧ FrameInv s

/-- `csum` is the sum of the length and of the payload bytes stored so far, each of which holds a value (R36, R126). -/
abbrev SumInv (s : State) : Prop :=
  (firstBytes s.scratch s.widx).map (checksumOf s.len) = some s.csum

/-- The decoder's invariant by parse state (R37, R126). -/
abbrev DecoderInv (s : State) : Prop :=
  (s.st = .waitSync1 ∨ s.st = .waitSync2 ∨ s.st = .readLength → s.len = 0 ∧ s.widx = 0 ∧ s.csum = 0) ∧
    (s.st = .readPayload → 1 ≤ s.len ∧ s.len ≤ s.cfg.maxPayload ∧ s.widx < s.len ∧ SumInv s) ∧
    (s.st = .readChecksum → s.len ≤ s.cfg.maxPayload ∧ s.widx = s.len ∧ SumInv s)

/-- The invariant of the wired block. -/
abbrev BlockInv (s : State) : Prop := BaseInv s ∧ DecoderInv s

/-- The moves that the wired block's environment and synchronisers can make (R13, R212); the others drive one module alone. -/
def Event.wired : Event → Bool
  | .wr _ _ | .rd _ _ | .sync _ _ | .rst _ => true
  | .rdPort _ | .stl _ | .dec _ | .cs _ _ | .lc _ _ | .wd _ _ => false

/-- A choice the hardware has: a synchroniser moves its view by no more than the distance to the index (R185, R186). -/
def Event.allowed (s : State) : Event → Bool
  | .sync .head k => decide (k ≤ ringDist s.cfg s.headSeen s.head)
  | .sync .tail k => decide (k ≤ ringDist s.cfg s.tailSeen s.tail)
  | _ => true

/-- The next move is one the wired block can make. -/
abbrev NextWired (s : State) : Prop := s.agenda.head?.all Event.wired = true

/-- The next move is a choice the hardware has. -/
abbrev NextAllowed (s : State) : Prop := s.agenda.head?.all (Event.allowed s) = true

/-- The move submits a byte. -/
def Event.submits : Event → Bool
  | .wr valid _ => valid
  | _ => false

/-- The end of a run (R213): no more submissions come, both views have caught up, and the consumer side is either idle on an empty
channel or halted. -/
abbrev Quiescent (s : State) : Prop :=
  s.agenda.any Event.submits = false ∧ s.headSeen = s.head ∧ s.tailSeen = s.tail ∧
    (rdEmpty s = true ∧ s.halted = false ∨ s.halted = true)

end Sys2Proof.Machine
end

