-- ==== Sys2Proof/Certificates/Slice0/Obligations.lean ====
section
/-! DEFINITION. The statements for the provers. Each says of the model what a rule of spec/ says of the block. -/

open Sys2Proof Sys2Proof.Machine

/-! ## Encoding -/

/-- Words of the opcode table written out bit by bit from R96 to R106 decode to the operations they stand for, in
every build (a length byte by its MAX_PAYLOAD). -/
def Obligations.WrittenOutKeysDecodeToTheirOperations : Prop :=
  ∀ (p : Params) (c : Conds),
    decode p c { fmt := .wr, key := 0b100111100 } = .ok (.push 0x3C) ∧
    decode p c { fmt := .wr, key := 0b000111100 } = .ok .wnop ∧
    decode p c { fmt := .rd, key := 0b1 } = .ok .pop ∧
    decode p c { fmt := .con, key := 0b011 } = .ok .stop ∧
    decode p c { fmt := .con, key := 0b101 } = .ok .halted ∧
    decode p c { fmt := .con, key := 0b000, time := 7 } = .ok (.consume 7) ∧
    decode p c { fmt := .dec, key := 0b00010101010 } = .ok .ws1Hit ∧
    decode p c { fmt := .dec, key := 0b00101010101 } = .ok .ws2Hit ∧
    (p.maxPayload < 0x21 → decode p c { fmt := .dec, key := 0b01000100001 } = .ok (.lenOver 0x21)) ∧
    (0x05 ≤ p.maxPayload → decode p c { fmt := .dec, key := 0b01000000101 } = .ok (.lenOk 0x05)) ∧
    decode p c { fmt := .cs, key := 0b11, byte := 0x05 } = .ok (.csAdd 0x05) ∧
    decode p c { fmt := .lc, key := 0b11 } = .ok .lcInc ∧
    decode p c { fmt := .wd, key := 0b1, time := 9 } = .ok (.wdStamp 9) ∧
    decode p c { fmt := .stl, key := 0b1 } = .ok .staleClr ∧
    decode p c { fmt := .rst, key := 0b0 } = .ok .reset ∧
    decode p c { fmt := .auto .head, key := 0, places := 2 } = .ok (.syncHead 2)

/-- Decoding an encoded well-formed operation gives it back, with every operand at every value, for every build and under every
state condition its row admits. -/
def Obligations.DecodeOfEncodeIsTheOperation : Prop :=
  ∀ (p : Params) (c : Conds) (i : Instr), wellFormed p i = true → c.admits i = true → decode p c (encode i) = .ok i

/-- A key that decodes to an operation lies in that operation's row of the table: (key AND mask) = match (R110); the operation is
well formed when the time and the places fit, and its row's condition holds. -/
def Obligations.DecodedKeyLiesInItsTableRow : Prop :=
  ∀ (p : Params) (c : Conds) (d : Drive) (i : Instr), decode p c d = .ok i →
    d.key &&& (tableRow i).1 = (tableRow i).2 ∧ c.admits i = true ∧
      (d.time < 2 ^ p.tsW → d.places < p.fifoDepth → wellFormed p i = true)

/-- The keys that give no operation are exactly those too wide for their format, those with a reserved state code 5, 6 or 7
(R113, R166), key 0 of STL (R101) and key 1 of RST (R105). -/
def Obligations.KeysWithoutOperationAreExactlyTheNamedOnes : Prop :=
  ∀ (p : Params) (c : Conds) (d : Drive),
    (decode p c d = .error .keyTooWide ↔ 2 ^ d.fmt.width ≤ d.key) ∧
    (decode p c d = .error .reservedState ↔ d.fmt = .dec ∧ d.key < 2048 ∧ 5 ≤ d.key / 256) ∧
    (decode p c d = .error .selectsNothing ↔ (d.fmt = .stl ∧ d.key = 0) ∨ (d.fmt = .rst ∧ d.key = 1))

/-- In a state that meets the decoder's invariant a byte has exactly one row of the dispatch table that holds, and that transition's
operation is the one the DEC key selects (R100, R153). -/
def Obligations.DispatchSelectsTheOneRowThatHolds : Prop :=
  ∀ (s : State) (b : Byte), DecoderInv s →
    (∀ x, rowHolds s b x ↔ x = selected s b) ∧ fetch s (.dec b) = .ok ((selected s b).toInstr b)

/-! ## The step -/

/-- When the next move's key decodes to an operation, the step is that operation on the state with the move taken off the agenda. A
move that selects nothing (R101, R105) is only taken off; with no move nothing changes (the model's choice, log 2). -/
def Obligations.StepRunsTheDecodedOperation : Prop :=
  (∀ (s : State) (e : Event) (rest : List Event) (i : Instr), s.agenda = e :: rest →
    decode s.cfg (condsOf s (fedByte e)) (driveOf s e) = .ok i → step s = exec i { s with agenda := rest }) ∧
  (∀ (s : State) (e : Event) (rest : List Event), s.agenda = e :: rest →
    decode s.cfg (condsOf s (fedByte e)) (driveOf s e) = .error .selectsNothing → step s = .next { s with agenda := rest }) ∧
  (∀ s : State, s.agenda = [] → step s = .next s)

/-- What happens in one `rd_clk` cycle, in order of precedence, and in one `wr_clk` cycle (R208); the pin `rst_n` alone (R105); `rd_pop`
= `byte_valid` = 1 exactly when CONSUME is selected (R200). That a
reset, a read edge and a write edge are moves of their own is the model's choice (logs 4, 6). -/
def Obligations.EachClockEdgeSelectsByPrecedence : Prop :=
  ∀ (s : State) (rest : List Event),
    (s.agenda = .rst false :: rest → step s = exec .reset { s with agenda := rest }) ∧
    (∀ stopReq t, s.agenda = .rd stopReq t :: rest →
      step s = exec (if s.halted = true then .halted else if stopReq = true then .stop
        else if rdEmpty s = false then .consume t else .cidle) { s with agenda := rest }) ∧
    (∀ valid b, s.agenda = .wr valid b :: rest →
      step s = exec (if valid = true then .push b else .wnop) { s with agenda := rest }) ∧
    (∀ stopReq t, byteValid s stopReq = true ↔ fetch s (.rd stopReq t) = .ok (.consume t))

/-! ## The FIFO -/

/-- PUSH b (R181, R235): full, nothing is written and the answer is Rejected(ChannelFull); else the byte is stored at `head`, every
other slot is left, `head` advances by one modulo FIFO_DEPTH, and the answer is Accepted. Nothing else changes in either case. The
answer stands in the model's record of submissions (log 8). -/
def Obligations.PushStoresAtHeadOrIsRejectedWhenFull : Prop :=
  ∀ (b : Byte) (s : State),
    ((s.head + 1) % s.cfg.fifoDepth = s.tailSeen →
      exec (.push b) s = .next { s with submissions := s.submissions ++ [⟨b, .rejectedChannelFull⟩] }) ∧
    ((s.head + 1) % s.cfg.fifoDepth ≠ s.tailSeen → s.head < s.cfg.fifoDepth →
      ∃ m, exec (.push b) s = .next { s with
          fifoMem := m, head := (s.head + 1) % s.cfg.fifoDepth, submissions := s.submissions ++ [⟨b, .accepted⟩] } ∧
        memRead m s.head = some b ∧ ∀ a, a ≠ s.head → memRead m a = memRead s.fifoMem a)

/-- POP (R183): empty, the result is None and nothing is written; else the result is the byte at `tail` and `tail` advances. The
result stands in the model's record of POP results (log 8). -/
def Obligations.PopReturnsTheByteAtTailOrNone : Prop :=
  ∀ s : State,
    (s.tail = s.headSeen → exec .pop s = .next { s with pops := s.pops ++ [none] }) ∧
    (∀ v, s.tail ≠ s.headSeen → s.tail < s.cfg.fifoDepth → memRead s.fifoMem s.tail = some v →
      exec .pop s = .next { s with tail := (s.tail + 1) % s.cfg.fifoDepth, pops := s.pops ++ [some v] })

/-- WNOP and RNOP write nothing (R182, R184), and are selected by `wr_valid` = 0 and `rd_pop` = 0. -/
def Obligations.IdlePortCyclesWriteNothing : Prop :=
  ∀ s : State, exec .wnop s = .next s ∧ exec .rnop s = .next s ∧
    (∀ d, fetch s (.wr false d) = .ok .wnop) ∧ fetch s (.rdPort false) = .ok .rnop

/-- SYNC_HEAD k and SYNC_TAIL k (R185, R186): for each k from 0 to the distance the view moves forward by k places and nothing else
changes. A larger k is refused (the model's choice, log 5). -/
def Obligations.SynchroniserMovesItsViewForward : Prop :=
  ∀ (s : State) (k : Nat),
    (k ≤ (s.head + s.cfg.fifoDepth - s.headSeen) % s.cfg.fifoDepth →
      exec (.syncHead k) s = .next { s with headSeen := (s.headSeen + k) % s.cfg.fifoDepth }) ∧
    (k ≤ (s.tail + s.cfg.fifoDepth - s.tailSeen) % s.cfg.fifoDepth →
      exec (.syncTail k) s = .next { s with tailSeen := (s.tailSeen + k) % s.cfg.fifoDepth }) ∧
    ((s.head + s.cfg.fifoDepth - s.headSeen) % s.cfg.fifoDepth < k → exec (.syncHead k) s = .refused .viewPastIndex) ∧
    ((s.tail + s.cfg.fifoDepth - s.tailSeen) % s.cfg.fifoDepth < k → exec (.syncTail k) s = .refused .viewPastIndex)

/-- Views catch up in the end (R79). A synchroniser step of the whole distance makes the view equal to its index. On every run whose
synchroniser steps are weakly fair, once `head` stops changing `head_seen` becomes equal to it after finitely many moves and stays so,
and the same for `tail` and `tail_seen`. Without fairness a view may lag for ever. How weak fairness is said of a run is the model's
reading of R79 (log 17). -/
def Obligations.FairRunsLetViewsCatchUp : Prop :=
  (∀ s : State, s.head < s.cfg.fifoDepth → s.tail < s.cfg.fifoDepth → s.headSeen < s.cfg.fifoDepth →
    s.tailSeen < s.cfg.fifoDepth →
    exec (.syncHead (ringDist s.cfg s.headSeen s.head)) s = .next { s with headSeen := s.head } ∧
    exec (.syncTail (ringDist s.cfg s.tailSeen s.tail)) s = .next { s with tailSeen := s.tail }) ∧
  (∀ (moves : Nat → Event) (r : Nat → State), IsRun moves r → Fair moves r → 2 ≤ (r 0).cfg.fifoDepth → RingInv (r 0) →
    (∀ n, (∀ m, n ≤ m → (r m).head = (r n).head) → ∃ k, n ≤ k ∧ ∀ m, k ≤ m → (r m).headSeen = (r m).head) ∧
    (∀ n, (∀ m, n ≤ m → (r m).tail = (r n).tail) → ∃ k, n ≤ k ∧ ∀ m, k ≤ m → (r m).tailSeen = (r m).tail)) ∧
  (∃ (moves : Nat → Event) (r : Nat → State), IsRun moves r ∧ BlockInv (r 0) ∧ ¬ Fair moves r ∧
    ∀ n, (r n).head = (r 0).head ∧ (r n).headSeen ≠ (r n).head)

/-- Every operation keeps the ring invariant (R29, R189). -/
def Obligations.EveryOperationKeepsTheRingInvariant : Prop :=
  ∀ (i : Instr) (s t : State), 2 ≤ s.cfg.fifoDepth → RingInv s → exec i s = .next t → RingInv t

/-- The flags err on one side only (R78): each may be 1 when the truth is 0; `wr_full` = 0 means the slot at `head` is free,
`rd_empty` = 0 means the slot at `tail` holds a pushed byte, the oldest one; with both views caught up they are exact (R191 (a)
and (b)). -/
def Obligations.FlagsErrOnOneSideOnly : Prop :=
  (∃ s : State, BlockInv s ∧ wrFull s = true ∧ occupancy s < s.cfg.fifoDepth - 1) ∧
  (∃ s : State, BlockInv s ∧ rdEmpty s = true ∧ s.head ≠ s.tail) ∧
  (∀ s : State, s.cfg.ok → RingInv s → FifoInv s →
    (wrFull s = false → occupancy s < s.cfg.fifoDepth - 1 ∧
      ∀ i < occupancy s, forward s.cfg s.tail i ≠ s.head) ∧
    (rdEmpty s = false → ∃ v l, contents s = some v :: l ∧ memRead s.fifoMem s.tail = some v) ∧
    (s.headSeen = s.head → s.tailSeen = s.tail →
      (wrFull s = true ↔ occupancy s = s.cfg.fifoDepth - 1) ∧ (rdEmpty s = true ↔ s.head = s.tail)))

/-- `rd_empty` goes from 1 to 0 only by SYNC_HEAD (R185), and `wr_full` only by SYNC_TAIL (R186) or a reset. -/
def Obligations.FlagsFallOnlyBySynchroniserSteps : Prop :=
  ∀ (i : Instr) (s t : State), 2 ≤ s.cfg.fifoDepth → exec i s = .next t →
    (rdEmpty s = true → rdEmpty t = false → ∃ k, i = .syncHead k) ∧
    (wrFull s = true → wrFull t = false → i = .reset ∨ ∃ k, i = .syncTail k)

/-- A PUSH and a POP at the same instant never touch the same slot, and either order gives the same state (R192). -/
def Obligations.PushAndPopCommute : Prop :=
  ∀ (b : Byte) (s : State), s.cfg.ok → RingInv s → FifoInv s →
    (rdEmpty s = false → s.tail ≠ s.head) ∧
    ∃ t, andThen (exec (.push b) s) (exec .pop) = .next t ∧ andThen (exec .pop s) (exec (.push b)) = .next t

/-- From any empty channel whose producer sees it so (`tail_seen` = `tail`), with no POP, submissions number 1 to FIFO_DEPTH − 1 are
accepted and every later one is rejected (R191 (d)). The answers stand in the model's record of submissions (log 8). -/
def Obligations.OnlyTheUsableSlotsAccept : Prop :=
  ∀ (s : State) (bytes : List Byte), s.cfg.ok → RingInv s → s.head = s.tail → s.tailSeen = s.tail →
    ∃ t, execAll (bytes.map .push) s = .next t ∧
      t.submissions = s.submissions ++ (bytes.take (s.cfg.fifoDepth - 1)).map (fun b => ⟨b, .accepted⟩) ++
        (bytes.drop (s.cfg.fifoDepth - 1)).map (fun b => ⟨b, .rejectedChannelFull⟩) ∧
      t.head = (s.head + min bytes.length (s.cfg.fifoDepth - 1)) % s.cfg.fifoDepth ∧ t.tail = s.tail

/-- N pushes with N ≤ FIFO_DEPTH − 1 into any empty channel whose producer sees it so, wherever its indices stand on the ring, a
SYNC_HEAD that catches up, and N pops return the bytes in the order pushed (R80, R191 (c)). The results stand in the model's record
of POP results (log 8). -/
def Obligations.PushedBytesArePoppedInOrder : Prop :=
  ∀ (s : State) (bytes : List Byte), s.cfg.ok → RingInv s → FifoInv s → s.head = s.tail → s.tailSeen = s.tail →
    bytes.length ≤ s.cfg.fifoDepth - 1 →
    ∃ t, execAll (bytes.map .push ++ [.syncHead bytes.length] ++ List.replicate bytes.length .pop) s = .next t ∧
      t.pops = s.pops ++ bytes.map some ∧ rdEmpty t = true ∧ occupancy t = 0 ∧
      t.tail = (s.tail + bytes.length) % s.cfg.fifoDepth

/-! ## The datapath commands -/

/-- CS_HOLD, CS_CLEAR, CS_SEED, CS_ADD (R121 to R124): their codes and their whole effect. -/
def Obligations.ChecksumCommandsHoldClearSeedAdd : Prop :=
  ∀ (p : Params) (c : Conds) (b : Byte) (t k : Nat) (s : State),
    (decode p c ⟨.cs, 0b00, b, t, k⟩ = .ok .csHold ∧ exec .csHold s = .next s) ∧
    (decode p c ⟨.cs, 0b01, b, t, k⟩ = .ok .csClear ∧ exec .csClear s = .next { s with csum := 0x00#8 }) ∧
    (decode p c ⟨.cs, 0b10, b, t, k⟩ = .ok (.csSeed b) ∧ exec (.csSeed b) s = .next { s with csum := b }) ∧
    (decode p c ⟨.cs, 0b11, b, t, k⟩ = .ok (.csAdd b) ∧
      exec (.csAdd b) s = .next { s with csum := BitVec.ofNat 8 ((s.csum.toNat + b.toNat) % 256) })

/-- The arithmetic law of the accumulator (R120): reducing modulo 256 after every CS_ADD gives the sum in a wide register reduced
once at the end, and any order of adding gives the same. -/
def Obligations.ChecksumIsTheWideSumModulo256InAnyOrder : Prop :=
  ∀ (bytes other : List Byte) (s : State),
    (∃ t, execAll (bytes.map .csAdd) s = .next t ∧
      t.csum.toNat = (s.csum.toNat + (bytes.map BitVec.toNat).sum) % 256) ∧
    (bytes.Perm other → execAll (bytes.map .csAdd) s = execAll (other.map .csAdd) s)

/-- LC_HOLD, LC_CLEAR, LC_LOAD, LC_INC (R128 to R131): their codes and their whole effect, LC_INC where the state machine issues
it. -/
def Obligations.LengthCommandsHoldClearLoadIncrement : Prop :=
  ∀ (p : Params) (c : Conds) (b : Byte) (t k : Nat) (s : State),
    (decode p c ⟨.lc, 0b00, b, t, k⟩ = .ok .lcHold ∧ exec .lcHold s = .next s) ∧
    (decode p c ⟨.lc, 0b01, b, t, k⟩ = .ok .lcClear ∧ exec .lcClear s = .next { s with len := 0, widx := 0 }) ∧
    (decode p c ⟨.lc, 0b10, b, t, k⟩ = .ok (.lcLoad b) ∧
      exec (.lcLoad b) s = .next { s with len := b.toNat % 2 ^ s.cfg.lenW, widx := 0 } ∧
      (b.toNat ≤ s.cfg.maxPayload → exec (.lcLoad b) s = .next { s with len := b.toNat, widx := 0 })) ∧
    (decode p c ⟨.lc, 0b11, b, t, k⟩ = .ok .lcInc ∧
      (s.widx < s.len → s.len ≤ s.cfg.maxPayload →
        exec .lcInc s = .next { s with widx := s.widx + 1 } ∧ s.widx + 1 ≤ s.len ∧
          (s.widx + 1 = s.len ↔ lcLast s = true)))

/-- LC_INC in any state, also where the state machine never issues it (R131, R32): `widx` counts up by one as long as its LEN_W bits
hold the result, `len` and the rest are left. Beyond, where R127 says that no addition of the module overflows and no result is
stated, the machine goes on with a free value of LEN_W bits (the model's choice, log 9). -/
def Obligations.LengthIncrementCountsWithinItsRegister : Prop :=
  ∀ s : State,
    (s.widx + 1 < 2 ^ s.cfg.lenW → exec .lcInc s = .next { s with widx := s.widx + 1 }) ∧
    (2 ^ s.cfg.lenW ≤ s.widx + 1 → ∃ v, v < 2 ^ s.cfg.lenW ∧ exec .lcInc s = .next { s with widx := v })

/-- The derived widths (R7): LEN_W is the least width that holds MAX_PAYLOAD, and ADDR_W bits number the FIFO_DEPTH slots. -/
def Obligations.DerivedWidthsHoldTheirValues : Prop :=
  ∀ p : Params, p.ok →
    p.maxPayload < 2 ^ p.lenW ∧ (∀ w, p.maxPayload < 2 ^ w → p.lenW ≤ w) ∧ 2 ^ p.addrW = p.fifoDepth ∧ 1 ≤ p.addrW

/-- WD_STAMP and WD_HOLD (R143, R144): their codes and their whole effect; the timestamp is the TS_W bits of `time_now`. -/
def Obligations.WatchdogCommandsStampAndHold : Prop :=
  ∀ (p : Params) (c : Conds) (b : Byte) (t k : Nat) (s : State),
    (decode p c ⟨.wd, 1, b, t, k⟩ = .ok (.wdStamp t) ∧
      exec (.wdStamp t) s = .next { s with lastTs := t % 2 ^ s.cfg.tsW } ∧
      (t < 2 ^ s.cfg.tsW → exec (.wdStamp t) s = .next { s with lastTs := t })) ∧
    (decode p c ⟨.wd, 0, b, t, k⟩ = .ok .wdHold ∧ exec .wdHold s = .next s)

/-- The staleness test (R141): `stale` = 1 exactly when ((`time_now` − `last_ts`) mod 2^TS_W) > TIMEOUT, the difference taken on
integers. -/
def Obligations.StaleIsTheModularGapAboveTheTimeout : Prop :=
  ∀ (s : State) (t : Nat), s.lastTs < 2 ^ s.cfg.tsW → t < 2 ^ s.cfg.tsW →
    (stale s t = true ↔ ((t : Int) - (s.lastTs : Int)) % (2 : Int) ^ s.cfg.tsW > (s.cfg.timeout : Int))

/-- The arithmetic law of the test (R142), for g true ticks since the last feed, and for time d ticks backward. -/
def Obligations.StalenessLawForTrueGaps : Prop :=
  ∀ (s : State), s.cfg.ok → s.lastTs < 2 ^ s.cfg.tsW →
    (∀ g, stale s ((s.lastTs + g) % 2 ^ s.cfg.tsW) = true ↔ g % 2 ^ s.cfg.tsW > s.cfg.timeout) ∧
    (∀ g, g < 2 ^ s.cfg.tsW → (stale s ((s.lastTs + g) % 2 ^ s.cfg.tsW) = true ↔ g > s.cfg.timeout)) ∧
    (s.cfg.timeout = 2 ^ s.cfg.tsW - 1 → ∀ t, stale s t = false) ∧
    (∀ d, 0 < d → d < 2 ^ s.cfg.tsW →
      (stale s ((s.lastTs + 2 ^ s.cfg.tsW - d) % 2 ^ s.cfg.tsW) = true ↔ 2 ^ s.cfg.tsW - d > s.cfg.timeout))

/-! ## The decoder -/

/-- STALE_CLR is `decoder_clear()` and nothing else, in any parse state (R152, R151); the staleness step selects it exactly when
`stale` = 1. -/
def Obligations.StaleClearReturnsTheDecoderToInitial : Prop :=
  ∀ s : State,
    exec .staleClr s = .next { s with st := .waitSync1, len := 0, widx := 0, csum := 0x00#8 } ∧
    ∀ t, fetch s (.stl t) = if stale s t = true then .ok .staleClr else .error .selectsNothing

/-- WS1_HIT, WS1_MISS, WS2_HIT, WS2_MISS: what each does, and which byte selects it (R154 to R157). The stamp of R150 is no part of
a transition's operation but the operation WD_STAMP of the feed (the model's reading, log 11). -/
def Obligations.PreambleTransitionsMoveOnlyTheParseState : Prop :=
  ∀ (s : State) (b : Byte),
    exec .ws1Hit s = .next { s with st := .waitSync2 } ∧
    exec (.ws1Miss b) s = .next s ∧
    exec .ws2Hit s = .next { s with st := .readLength } ∧
    exec (.ws2Miss b) s = .next { s with st := .waitSync1 } ∧
    (s.st = .waitSync1 → fetch s (.dec b) = .ok (if b = 0xAA#8 then .ws1Hit else .ws1Miss b)) ∧
    (s.st = .waitSync2 → fetch s (.dec b) = .ok (if b = 0x55#8 then .ws2Hit else .ws2Miss b))

/-- LEN_OVER, LEN_ZERO, LEN_OK: what each does, and which byte selects it (R158 to R160). -/
def Obligations.LengthByteTransitionsClearOrLoad : Prop :=
  ∀ (s : State) (b : Byte),
    exec (.lenOver b) s = .next { s with st := .waitSync1, len := 0, widx := 0, csum := 0x00#8 } ∧
    exec .lenZero s = .next { s with st := .readChecksum, len := 0, widx := 0, csum := 0x00#8 } ∧
    exec (.lenOk b) s = .next { s with st := .readPayload, len := b.toNat % 2 ^ s.cfg.lenW, widx := 0, csum := b } ∧
    (b.toNat ≤ s.cfg.maxPayload → b.toNat % 2 ^ s.cfg.lenW = b.toNat) ∧
    (s.st = .readLength → fetch s (.dec b) =
      .ok (if b.toNat > s.cfg.maxPayload then .lenOver b else if b = 0x00#8 then .lenZero else .lenOk b))

/-- PAY_MORE and PAY_LAST (R161, R162): the byte is stored at `widx`, every other byte of `scratch` is left, the byte is added to
`csum`, `widx` goes up by one, and PAY_LAST goes to READ_CHECKSUM; nothing else changes. -/
def Obligations.PayloadTransitionsStoreSumAndCount : Prop :=
  ∀ (s : State) (b : Byte), s.widx < s.cfg.maxPayload →
    (∃ m, exec (.payMore b) s = .next { s with
        scratch := m, csum := BitVec.ofNat 8 ((s.csum.toNat + b.toNat) % 256), widx := s.widx + 1 } ∧
      exec (.payLast b) s = .next { s with
        st := .readChecksum, scratch := m, csum := BitVec.ofNat 8 ((s.csum.toNat + b.toNat) % 256), widx := s.widx + 1 } ∧
      memRead m s.widx = some b ∧ ∀ a, a ≠ s.widx → memRead m a = memRead s.scratch a) ∧
    (s.st = .readPayload → fetch s (.dec b) = .ok (if s.widx + 1 = s.len then .payLast b else .payMore b))

/-- CHK_OK and CHK_BAD (R163, R164, R206, R63): CHK_OK emits the frame of `len` and the first `len` bytes of `scratch` and clears the
decoder; every byte of `frame_payload` becomes that of `scratch` (R63), those at index `len` and above too, which mean nothing to
the sink and which the model keeps as copied (log 19). CHK_BAD only clears. -/
def Obligations.ChecksumTransitionsEmitOrDropTheFrame : Prop :=
  ∀ (s : State) (b : Byte),
    (∀ bytes : List Byte, s.len ≤ s.cfg.maxPayload → bytes.length = s.len →
      (∀ i (h : i < bytes.length), memRead s.scratch i = some bytes[i]) →
      ∃ m, exec (.chkOk b) s = .next { s with
          st := .waitSync1, len := 0, widx := 0, csum := 0x00#8, frameLen := s.len, framePayload := m, frameValid := true,
          framesOut := s.framesOut ++ [⟨s.len, bytes⟩] } ∧
        ∀ a, memRead m a = memRead s.scratch a) ∧
    exec (.chkBad b) s = .next { s with st := .waitSync1, len := 0, widx := 0, csum := 0x00#8 } ∧
    (s.st = .readChecksum → fetch s (.dec b) = .ok (if b = s.csum then .chkOk b else .chkBad b))

/-- The four conditions of the decoder (R231 to R234, R240): in a state that meets the decoder's invariant the transition that
stands for a condition does exactly `decoder_clear()`, and records nothing. -/
def Obligations.EveryDecoderConditionIsOnlyTheClear : Prop :=
  ∀ (s : State) (b : Byte), DecoderInv s →
    (s.st = .waitSync1 → exec (.ws1Miss b) s = .next (decoderClear s)) ∧
    (s.st = .waitSync2 → exec (.ws2Miss b) s = .next (decoderClear s)) ∧
    exec (.lenOver b) s = .next (decoderClear s) ∧
    exec (.chkBad b) s = .next (decoderClear s) ∧
    exec .staleClr s = .next (decoderClear s)

/-- FEED is three things in order (R150): driving the staleness step, the stamp and the dispatch one after the other is the feed. -/
def Obligations.FeedIsStaleStepThenStampThenDispatch : Prop :=
  ∀ (s : State) (b : Byte) (t : Nat),
    Sys2Proof.core.run 3 { s with agenda := [.stl t, .wd true t, .dec b] } = feed b t { s with agenda := [] }

/-- The control signals of R165, applied by the datapath at one clock edge, do what the feed does, stale or not; with
`byte_valid` = 0 nothing changes. -/
def Obligations.ControlSignalsDoWhatTheFeedDoes : Prop :=
  ∀ (s : State) (b : Byte) (t : Nat),
    clockEdge (controls s true b t) b t s = feed b t s ∧ clockEdge (controls s false b t) b t s = .next s

/-- A stale byte is dispatched from a cleared decoder whatever the decoder held (R146, R152, R238): it is a hit if 0xAA and
otherwise dropped, and no frame is emitted. -/
def Obligations.StaleByteIsJudgedFromAClearedDecoder : Prop :=
  ∀ (s : State) (b : Byte) (t : Nat), stale s t = true →
    feed b t s = .next { s with
      st := if b = 0xAA#8 then .waitSync2 else .waitSync1, len := 0, widx := 0, csum := 0x00#8,
      lastTs := t % 2 ^ s.cfg.tsW }

/-- A feed that finds the decoder cleared behaves the same whatever `last_ts` held (R52). -/
def Obligations.FirstFeedDoesNotDependOnLastTs : Prop :=
  ∀ (s : State) (b : Byte) (t x : Nat), s.st = .waitSync1 → s.len = 0 → s.widx = 0 → s.csum = 0x00#8 →
    feed b t { s with lastTs := x } = feed b t s

/-- The decoder touches nothing but its own state (R170). A feed neither reads nor writes the FIFO, the views, `halted` or the traces
of the ports. It reads only the byte, the time and the decoder state: in two states with the same decoder state (of one build) it
does the same. It writes the decoder state and, on CHK_OK only (the byte not stale, equal to `csum` in READ_CHECKSUM), the frame
output and the trace of frames. -/
def Obligations.FeedTouchesNothingOfTheFifo : Prop :=
  (∀ (s : State) (b : Byte) (t : Nat) (m : Memory) (h tl hs ts : Nat) (x : Bool) (l : List Submission)
    (r : List (Option Byte)),
    feed b t { s with
        fifoMem := m, head := h, tail := tl, headSeen := hs, tailSeen := ts, halted := x, submissions := l, pops := r } =
      andThen (feed b t s) fun u => .next { u with
        fifoMem := m, head := h, tail := tl, headSeen := hs, tailSeen := ts, halted := x, submissions := l, pops := r }) ∧
  (∀ (s o : State) (b : Byte) (t : Nat), o.cfg = s.cfg → o.st = s.st → o.len = s.len → o.widx = s.widx → o.csum = s.csum →
    o.scratch = s.scratch → o.lastTs = s.lastTs →
    feed b t o = andThen (feed b t s) fun u =>
      let decoded : State := { o with
        st := u.st, len := u.len, widx := u.widx, csum := u.csum, scratch := u.scratch, lastTs := u.lastTs }
      if stale s t = false ∧ s.st = .readChecksum ∧ b = s.csum then
        .next { decoded with
          frameValid := true, frameLen := s.len, framePayload := s.scratch,
          framesOut := o.framesOut ++ u.framesOut.drop s.framesOut.length }
      else .next decoded)

/-- A valid frame is always decoded (R167): fed from WAIT_SYNC1, or with a stale gap before its first byte from any state (R146),
with no stale gap inside, it gives exactly one frame at its last byte and none before, and leaves the decoder in WAIT_SYNC1,
cleared. -/
def Obligations.ValidFrameIsDecodedExactlyOnce : Prop :=
  ∀ (s : State) (payload : List Byte) (times : List Nat), s.cfg.ok → payload.length ≤ s.cfg.maxPayload →
    times.length = payload.length + 4 → noStaleGap s.cfg times →
    (s.st = .waitSync1 ∨ ∃ t l, times = t :: l ∧ stale s t = true) →
    (∃ u, feeds ((wireFrame payload (checksumOf payload.length payload)).zip times) s = .next u ∧
      u.framesOut = s.framesOut ++ [⟨payload.length, payload⟩] ∧ frameOut u = some ⟨payload.length, payload⟩ ∧
      u.st = .waitSync1 ∧ u.len = 0 ∧ u.widx = 0 ∧ u.csum = 0x00#8) ∧
    ∀ n < payload.length + 4, ∃ v,
      feeds (((wireFrame payload (checksumOf payload.length payload)).zip times).take n) s = .next v ∧
        v.framesOut = s.framesOut

/-- A frame with a wrong checksum byte, or with one payload byte changed, emits nothing, leaves `frame_len` and `frame_payload`, and
leaves the decoder in WAIT_SYNC1, cleared (R164, and the third and fourth case of R169). -/
def Obligations.CorruptedPayloadOrChecksumEmitsNothing : Prop :=
  (∀ (s : State) (payload : List Byte) (c : Byte) (times : List Nat), s.cfg.ok → payload.length ≤ s.cfg.maxPayload →
    times.length = payload.length + 4 → noStaleGap s.cfg times → s.st = .waitSync1 →
    c ≠ checksumOf payload.length payload →
    ∃ u, feeds ((wireFrame payload c).zip times) s = .next u ∧ u.framesOut = s.framesOut ∧ u.frameLen = s.frameLen ∧
      u.framePayload = s.framePayload ∧ u.st = .waitSync1 ∧ u.len = 0 ∧ u.widx = 0 ∧ u.csum = 0x00#8) ∧
  (∀ (s : State) (payload : List Byte) (i : Nat) (v : Byte) (times : List Nat), s.cfg.ok →
    payload.length ≤ s.cfg.maxPayload → times.length = payload.length + 4 → noStaleGap s.cfg times →
    s.st = .waitSync1 → payload[i]? ≠ some v → i < payload.length →
    ∃ u, feeds ((wireFrame (payload.set i v) (checksumOf payload.length payload)).zip times) s = .next u ∧
      u.framesOut = s.framesOut ∧ u.frameLen = s.frameLen ∧ u.framePayload = s.framePayload ∧ u.st = .waitSync1 ∧
      u.len = 0 ∧ u.widx = 0 ∧ u.csum = 0x00#8)

/-! ## The top level -/

/-- CONSUME (R202): in a state that meets the invariant, with a byte visible, the oldest byte is popped and fed at `time_now` in one
step; `frame_valid` becomes 1 exactly when the feed emitted a frame; the producer's side, the views, `halted` and the answers are
left. -/
def Obligations.ConsumePopsAndFeedsOneByte : Prop :=
  ∀ (s : State) (t : Nat), BlockInv s → rdEmpty s = false →
    ∃ b u, memRead s.fifoMem s.tail = some b ∧ exec (.consume t) s = .next u ∧
      feed b t { s with tail := (s.tail + 1) % s.cfg.fifoDepth, pops := s.pops ++ [some b], frameValid := false } = .next u ∧
      (u.frameValid = true ↔ ∃ f, u.framesOut = s.framesOut ++ [f]) ∧
      u.tail = (s.tail + 1) % s.cfg.fifoDepth ∧ u.pops = s.pops ++ [some b] ∧ u.lastTs = t % 2 ^ s.cfg.tsW ∧
      u.cfg = s.cfg ∧ u.fifoMem = s.fifoMem ∧ u.head = s.head ∧ u.headSeen = s.headSeen ∧ u.tailSeen = s.tailSeen ∧
      u.halted = s.halted ∧ u.submissions = s.submissions ∧ u.agenda = s.agenda

/-- CONSUME run where it is not selected, on an empty channel: POP returns None, nothing is fed, `frame_valid` is 0 (the model's
reading, log 12). -/
def Obligations.ConsumeOnEmptyFeedsNothing : Prop :=
  ∀ (s : State) (t : Nat), rdEmpty s = true →
    exec (.consume t) s = .next { s with frameValid := false, pops := s.pops ++ [none] }

/-- End to end from reset (R210), for a frame that fits the channel: submitted after reset, made visible and consumed with no stale gap after its
first byte, a valid frame is emitted exactly once, with its pulse at the last byte. -/
def Obligations.SubmittedFrameIsEmittedEndToEnd : Prop :=
  ∀ (p : Params) (l : List Event) (payload : List Byte) (times : List Nat), p.ok → payload.length ≤ p.maxPayload →
    payload.length + 4 ≤ p.fifoDepth - 1 → times.length = payload.length + 4 → noStaleGap p times →
    ∃ u, execAll ((wireFrame payload (checksumOf payload.length payload)).map .push ++
          [.syncHead (payload.length + 4)] ++ times.map .consume) (State.resetWith p l) = .next u ∧
      u.framesOut = [⟨payload.length, payload⟩] ∧ frameOut u = some ⟨payload.length, payload⟩ ∧ u.frameValid = true ∧
      u.st = .waitSync1 ∧ rdEmpty u = true ∧
      u.submissions = (wireFrame payload (checksumOf payload.length payload)).map (fun b => ⟨b, .accepted⟩)

/-- CIDLE, STOP, HALTED (R203 to R205): when each is selected, its whole effect, and that the producer's side goes on the same
whether the consumer is halted or not. -/
def Obligations.IdleStopAndHaltedEffects : Prop :=
  ∀ s : State,
    exec .cidle s = .next { s with frameValid := false } ∧
    exec .stop s = .next { s with halted := true, frameValid := false } ∧
    exec .halted s = .next { s with frameValid := false } ∧
    (∀ t, s.halted = false → rdEmpty s = true → fetch s (.rd false t) = .ok .cidle) ∧
    (∀ t, s.halted = false → fetch s (.rd true t) = .ok .stop) ∧
    (∀ stopReq t, s.halted = true → fetch s (.rd stopReq t) = .ok .halted) ∧
    (∀ (x : Bool) (b : Byte), exec (.push b) { s with halted := x } =
      andThen (exec (.push b) s) fun u => .next { u with halted := x })

/-- RESET: every register takes its value of R50. -/
def Obligations.ResetGivesEveryRegisterItsValue : Prop :=
  ∀ s : State, ∃ t, exec .reset s = .next t ∧
    t.head = 0 ∧ t.tail = 0 ∧ t.headSeen = 0 ∧ t.tailSeen = 0 ∧ t.st = .waitSync1 ∧ t.len = 0 ∧ t.widx = 0 ∧
    t.csum = 0x00#8 ∧ t.lastTs = 0 ∧ t.frameValid = false ∧ t.frameLen = 0 ∧ t.halted = false

/-- RESET, the rest (R51, R53, R207): no byte of an array holds a value, `frames_out` is empty; the parameters stay (R5). That the
traces of the ports become empty and the environment's moves stay is the model's choice (logs 8, 2). -/
def Obligations.ResetForgetsArraysAndTraces : Prop :=
  ∀ s : State, ∃ t, exec .reset s = .next t ∧
    (∀ i, memRead t.fifoMem i = none ∧ memRead t.scratch i = none ∧ memRead t.framePayload i = none) ∧
    t.framesOut = [] ∧ t.submissions = [] ∧ t.pops = [] ∧ t.cfg = s.cfg ∧ t.agenda = s.agenda

/-- The state after reset in words (R262, R207): both flags say empty, the consumer side is running, no frame was presented, and the
first byte submitted is accepted and goes to `fifo_mem[0]`. -/
def Obligations.AfterResetTheFirstByteIsAcceptedAtSlotZero : Prop :=
  ∀ (p : Params) (l : List Event) (b : Byte), p.ok →
    wrFull (State.resetWith p l) = false ∧ rdEmpty (State.resetWith p l) = true ∧
    (State.resetWith p l).halted = false ∧ (State.resetWith p l).frameValid = false ∧
    ∃ t, exec (.push b) (State.resetWith p l) = .next t ∧ t.submissions = [⟨b, .accepted⟩] ∧
      memRead t.fifoMem 0 = some b ∧ t.head = 1 % p.fifoDepth ∧ occupancy t = 1

/-- `frame_valid` is 1 after a read edge exactly when that edge consumed a byte whose transition was CHK_OK (R209, R38); the other
moves of the wired block except a reset leave it. -/
def Obligations.FrameValidFollowsExactlyTheChecksumHits : Prop :=
  (∀ (s u : State) (stopReq : Bool) (t : Nat) (rest : List Event), s.agenda = .rd stopReq t :: rest → step s = .next u →
    (u.frameValid = true ↔ s.halted = false ∧ stopReq = false ∧ rdEmpty s = false ∧ stale s t = false ∧
      s.st = .readChecksum ∧ memRead s.fifoMem s.tail = some s.csum)) ∧
  (∀ (s u : State) (valid : Bool) (b : Byte) (v : View) (k : Nat) (rest : List Event),
    s.agenda = .wr valid b :: rest ∨ s.agenda = .sync v k :: rest → step s = .next u → u.frameValid = s.frameValid)

/-- Stop is final (R205, R279): while `halted` is 1, no move of the wired block but a reset clears it, consumes a byte, or changes
the decoder, the trace, or the frame registers. -/
def Obligations.HaltedEndsConsumptionUntilReset : Prop :=
  ∀ (s u : State) (e : Event) (rest : List Event), s.agenda = e :: rest → e.wired = true → e ≠ .rst false →
    s.halted = true → step s = .next u →
    u.halted = true ∧ u.tail = s.tail ∧ u.pops = s.pops ∧ u.st = s.st ∧ u.len = s.len ∧ u.widx = s.widx ∧
      u.csum = s.csum ∧ u.scratch = s.scratch ∧ u.lastTs = s.lastTs ∧ u.framesOut = s.framesOut ∧
      u.frameLen = s.frameLen ∧ u.framePayload = s.framePayload

/-- The watchdog never fires by itself (R140, R144): in the wired block the decoder's registers change only at a read edge that
consumes a byte, or by a reset. -/
def Obligations.DecoderChangesOnlyWhenAByteIsConsumed : Prop :=
  ∀ (s u : State) (e : Event) (rest : List Event), s.agenda = e :: rest → e.wired = true → e ≠ .rst false →
    step s = .next u →
    (u.st ≠ s.st ∨ u.len ≠ s.len ∨ u.widx ≠ s.widx ∨ u.csum ≠ s.csum ∨ u.scratch ≠ s.scratch ∨ u.lastTs ≠ s.lastTs ∨
      u.framesOut ≠ s.framesOut ∨ u.frameLen ≠ s.frameLen ∨ u.framePayload ≠ s.framePayload) →
    (∃ t, e = .rd false t) ∧ s.halted = false ∧ rdEmpty s = false

/-- Who may write what (R49): each index, view, decoder register, output register and trace changes only by the operations of the
one side the ownership table names, besides a reset: so the operations of the FIFO and the idle ones of the top level leave the
decoder. Nothing writes the parameters (R5). -/
def Obligations.EachRegisterHasItsOneWriter : Prop :=
  ∀ (i : Instr) (s t : State), exec i s = .next t → i ≠ .reset →
    (t.fifoMem ≠ s.fifoMem ∨ t.head ≠ s.head ∨ t.submissions ≠ s.submissions → ∃ b, i = .push b) ∧
    (t.tail ≠ s.tail ∨ t.pops ≠ s.pops → i = .pop ∨ ∃ k, i = .consume k) ∧
    (t.headSeen ≠ s.headSeen → ∃ k, i = .syncHead k) ∧
    (t.tailSeen ≠ s.tailSeen → ∃ k, i = .syncTail k) ∧
    (t.halted ≠ s.halted → i = .stop) ∧
    (t.frameValid ≠ s.frameValid → ∃ b k, i ∈ [.chkOk b, .consume k, .cidle, .stop, .halted]) ∧
    (t.framesOut ≠ s.framesOut ∨ t.frameLen ≠ s.frameLen ∨ t.framePayload ≠ s.framePayload →
      (∃ b, i = .chkOk b) ∨ ∃ k, i = .consume k) ∧
    (t.st ≠ s.st → ∃ b k, i ∈ [.staleClr, .ws1Hit, .ws2Hit, .ws2Miss b, .lenOver b, .lenZero, .lenOk b, .payLast b, .chkOk b,
      .chkBad b, .consume k]) ∧
    (t.len ≠ s.len → ∃ b k, i ∈ [.staleClr, .lenOver b, .lenZero, .lenOk b, .chkOk b, .chkBad b, .lcClear, .lcLoad b,
      .consume k]) ∧
    (t.widx ≠ s.widx → ∃ b k, i ∈ [.staleClr, .lenOver b, .lenZero, .lenOk b, .payMore b, .payLast b, .chkOk b, .chkBad b,
      .lcClear, .lcLoad b, .lcInc, .consume k]) ∧
    (t.csum ≠ s.csum → ∃ b k, i ∈ [.staleClr, .lenOver b, .lenZero, .lenOk b, .payMore b, .payLast b, .chkOk b, .chkBad b,
      .csClear, .csSeed b, .csAdd b, .consume k]) ∧
    (t.scratch ≠ s.scratch → (∃ b, i = .payMore b) ∨ (∃ b, i = .payLast b) ∨ ∃ k, i = .consume k) ∧
    (t.lastTs ≠ s.lastTs → (∃ k, i = .wdStamp k) ∨ ∃ k, i = .consume k) ∧
    t.cfg = s.cfg ∧ t.agenda = s.agenda

/-- The frame copy and the packing of the output bus (R65): byte i of a frame lies at bits [8i+7:8i] of `frame_payload`. -/
def Obligations.PayloadByteLiesAtItsBitsOfTheBus : Prop :=
  ∀ (s : State) (n v : Nat), payloadBits s n = some v →
    v < 2 ^ (8 * n) ∧ ∀ i < n, memRead s.framePayload i = some (BitVec.ofNat 8 (v >>> (8 * i)))

/-! ## Invariants and safety -/

/-- The invariant holds after reset, for every build and every environment. -/
def Obligations.InvariantHoldsAfterReset : Prop :=
  (∀ (p : Params) (l : List Event), p.ok → BlockInv (State.resetWith p l)) ∧ BlockInv State.reset

/-- Every step keeps the ring invariant, first in first out, the canonical form of the arrays, the widths of the registers and the
agreement of the frame registers with the trace, whatever drives the modules (R29, R80, R190, R206). -/
def Obligations.EveryStepKeepsTheBaseInvariant : Prop :=
  ∀ s t : State, BaseInv s → step s = .next t → BaseInv t

/-- Every step of the wired block keeps the whole invariant, the decoder's of R36, R37 and R126 included. -/
def Obligations.EveryWiredStepKeepsTheInvariant : Prop :=
  ∀ s t : State, BlockInv s → NextWired s → step s = .next t → BlockInv t

/-- The wired block never stops (R213, R230): from a state that meets the invariant, every move the hardware can make gives a next
state that meets it; so no byte without a value is ever read (R51). -/
def Obligations.WiredBlockNeverStops : Prop :=
  ∀ s : State, BlockInv s → NextWired s → NextAllowed s → ∃ t, step s = .next t ∧ BlockInv t

/-- In a state that meets the invariant the parse state says what the decoder holds (R36, R37, R126): at every moment
`widx` ≤ `len` ≤ MAX_PAYLOAD, and in READ_PAYLOAD and READ_CHECKSUM `csum` is the sum, modulo 256, of `len` and the bytes stored
so far, each of which holds a value. -/
def Obligations.ChecksumReflectsTheBytesStoredSoFar : Prop :=
  ∀ s : State, BlockInv s →
    s.widx ≤ s.len ∧ s.len ≤ s.cfg.maxPayload ∧
    (s.st = .readPayload ∨ s.st = .readChecksum →
      ∃ bytes : List Byte, bytes.length = s.widx ∧ (∀ i (h : i < bytes.length), memRead s.scratch i = some bytes[i]) ∧
        s.csum.toNat = (s.len + (bytes.map BitVec.toNat).sum) % 256)

/-- At the end of a run with the consumer side not halted, every accepted byte has been popped, in order (R213, R80). -/
def Obligations.QuiescentRunningBlockHasConsumedEverything : Prop :=
  ∀ s : State, BlockInv s → Quiescent s → s.halted = false →
    poppedBytes s.pops = acceptedBytes s.submissions ∧ occupancy s = 0

/-- Where the model stops, outside the invariant: an access outside an array (R60), or a read of a byte that holds no value
(93 U4). -/
def Obligations.ModelFaultsOutsideItsArraysAndOnUnwrittenBytes : Prop :=
  ∀ (s : State) (b : Byte) (t : Nat),
    (wrFull s = false → s.cfg.fifoDepth ≤ s.head → exec (.push b) s = .fault (.noSuchByte .fifoMem)) ∧
    (rdEmpty s = false → s.cfg.fifoDepth ≤ s.tail →
      exec .pop s = .fault (.noSuchByte .fifoMem) ∧ exec (.consume t) s = .fault (.noSuchByte .fifoMem)) ∧
    (rdEmpty s = false → s.tail < s.cfg.fifoDepth → memRead s.fifoMem s.tail = none →
      exec .pop s = .fault (.unwrittenByte .fifoMem) ∧ exec (.consume t) s = .fault (.unwrittenByte .fifoMem)) ∧
    (s.cfg.maxPayload ≤ s.widx →
      exec (.payMore b) s = .fault (.noSuchByte .scratch) ∧ exec (.payLast b) s = .fault (.noSuchByte .scratch)) ∧
    (s.cfg.maxPayload < s.len → exec (.chkOk b) s = .fault (.noSuchByte .scratch)) ∧
    (∀ i, s.len ≤ s.cfg.maxPayload → i < s.len → memRead s.scratch i = none →
      exec (.chkOk b) s = .fault (.unwrittenByte .scratch))

/-! ## The crossing -/

/-- Successive values of a Gray-coded `w`-bit counter differ in exactly one bit, the wrap from 2^w − 1 to 0 included, and the code is
converted back (R187). -/
def Obligations.GrayCodesOfSuccessiveIndicesDifferInOneBit : Prop :=
  ∀ (w x : Nat), 1 ≤ w → x < 2 ^ w →
    (∃ j < w, gray ((x + 1) % 2 ^ w) = gray x ^^^ 2 ^ j) ∧ grayToBinary w (gray x) = x

/-- So a sample taken while the Gray-coded index changes is the old or the new value and never a third (R187, R69). -/
def Obligations.SampleOfAGrayCodedIndexIsOldOrNew : Prop :=
  ∀ (w x m : Nat), 1 ≤ w → x < 2 ^ w → SampleBetween (gray x) (gray ((x + 1) % 2 ^ w)) m →
    grayToBinary w m = x ∨ grayToBinary w m = (x + 1) % 2 ^ w
end

