-- ==== Sys2Proof/Laws/Build.lean ====
section
/-! SUPPORT. The builds that the free values of `Params.build` reach are exactly those that R6 allows. -/

namespace Sys2Proof.Params

theorem two_le_two_pow_succ (e : Nat) : 2 ≤ 2 ^ (e + 1) :=
  Nat.le_self_pow (by omega) 2

@[simp] theorem openBuild_maxPayload (e b t : Nat) : (openBuild e b t).maxPayload = 32 := rfl

@[simp] theorem openBuild_fifoDepth (e b t : Nat) : (openBuild e b t).fifoDepth = 2 ^ (e + 1) :=
  Nat.sub_add_cancel (two_le_two_pow_succ e)

@[simp] theorem openBuild_timeout (e b t : Nat) : (openBuild e b t).timeout = t % 2 ^ (b + 1) := rfl

@[simp] theorem openBuild_tsW (e b t : Nat) : (openBuild e b t).tsW = b + 1 := rfl

@[simp] theorem openBuild_syncStages (e b t : Nat) : (openBuild e b t).syncStages = 2 := rfl

/-- Every value of the free values gives a legal build. -/
theorem openBuild_ok (e b t : Nat) : (openBuild e b t).ok := by
  have ht : t % 2 ^ (b + 1) ≤ 2 ^ (b + 1) - 1 := Nat.le_sub_one_of_lt (Nat.mod_lt _ (Nat.two_pow_pos _))
  simpa [ok, two_le_two_pow_succ] using ht

theorem build_ok : build.ok := openBuild_ok _ _ _

/-- No legal value of an OPEN parameter is left out. -/
theorem openBuild_of_ok {p : Params} (h : p.ok) (hm : p.maxPayload = 32) (hs : p.syncStages = 2) :
    ∃ e b t, openBuild e b t = p := by
  obtain ⟨maxPayload, fifoDepth, timeout, tsW, syncStages⟩ := p
  obtain ⟨-, -, hd, hpow, hw, ht, -⟩ := h
  simp only at hm hs hd hpow hw ht
  obtain ⟨e, he⟩ : ∃ e, fifoDepth.log2 = e + 1 :=
    Nat.exists_eq_succ_of_ne_zero fun h0 => by rw [h0] at hpow; omega
  obtain ⟨b, rfl⟩ : ∃ b, tsW = b + 1 := ⟨tsW - 1, by omega⟩
  rw [he] at hpow
  have hp : 0 < 2 ^ (b + 1) := Nat.two_pow_pos _
  exact ⟨e, b, timeout, by
    rw [openBuild, hpow, Nat.sub_add_cancel hd, Nat.mod_eq_of_lt (by omega), hm, hs]⟩

end Sys2Proof.Params
end

