-- ==== Sys2Proof/Laws/Memory.lean ====
section
/-! SUPPORT. The byte arrays: read after write, and that a write keeps the canonical form and the array's bounds. -/

namespace Sys2Proof.Machine

@[simp] theorem memRead_nil (i : Nat) : memRead [] i = none := rfl

theorem memRead_memWrite_same (m : Memory) (i : Nat) (v : Byte) : memRead (memWrite m i v) i = some v := by
  induction m with
  | nil => simp [memWrite, memRead]
  | cons c m ih =>
    obtain ⟨j, w⟩ := c
    unfold memWrite
    split
    · simp [memRead]
    · split
      · simp [memRead]
      · rename_i h1 h2
        simp [memRead, Ne.symm h2, ih]

theorem memRead_memWrite_other (m : Memory) {i a : Nat} (v : Byte) (h : a ≠ i) :
    memRead (memWrite m i v) a = memRead m a := by
  induction m with
  | nil => simp [memWrite, memRead, Ne.symm h]
  | cons c m ih =>
    obtain ⟨j, w⟩ := c
    unfold memWrite
    split
    · simp [memRead, Ne.symm h]
    · split
      · rename_i h2
        subst h2
        simp [memRead, Ne.symm h]
      · simp [memRead, ih]

/-- What a read gives after a write, at any index. -/
theorem memRead_memWrite (m : Memory) (i a : Nat) (v : Byte) :
    memRead (memWrite m i v) a = if a = i then some v else memRead m a := by
  split
  · rename_i h; rw [h, memRead_memWrite_same]
  · rename_i h; exact memRead_memWrite_other m v h

theorem risingFrom_memWrite {lo : Nat} {m : Memory} {i : Nat} (v : Byte) (hlo : lo ≤ i)
    (h : Memory.risingFrom lo m = true) : Memory.risingFrom lo (memWrite m i v) = true := by
  induction m generalizing lo with
  | nil => simp [memWrite, Memory.risingFrom, hlo]
  | cons c m ih =>
    obtain ⟨j, w⟩ := c
    simp only [Memory.risingFrom, Bool.and_eq_true, decide_eq_true_eq] at h
    unfold memWrite
    split
    · rename_i hij
      simp [Memory.risingFrom, hlo, h.2]
      omega
    · split
      · rename_i hij
        subst hij
        simp [Memory.risingFrom, h.1, h.2]
      · rename_i h1 h2
        simp [Memory.risingFrom, h.1]
        exact ih (by omega) h.2

/-- A write keeps the canonical form. -/
theorem wf_memWrite {m : Memory} (i : Nat) (v : Byte) (h : Memory.wf m = true) : Memory.wf (memWrite m i v) = true :=
  risingFrom_memWrite v (Nat.zero_le i) h

/-- A write inside the array keeps every listed index inside it. -/
theorem within_memWrite {n : Nat} {m : Memory} {i : Nat} (v : Byte) (hi : i < n) (h : Memory.within n m = true) :
    Memory.within n (memWrite m i v) = true := by
  induction m with
  | nil => simp [memWrite, Memory.within, hi]
  | cons c m ih =>
    obtain ⟨j, w⟩ := c
    simp only [Memory.within, List.all_cons, Bool.and_eq_true, decide_eq_true_eq] at h
    have ih' := ih h.2
    simp only [Memory.within] at ih'
    unfold memWrite
    split
    · simp only [Memory.within, List.all_cons, Bool.and_eq_true, decide_eq_true_eq]; exact ⟨hi, h.1, h.2⟩
    · split
      · simp only [Memory.within, List.all_cons, Bool.and_eq_true, decide_eq_true_eq]; exact ⟨hi, h.2⟩
      · simp only [Memory.within, List.all_cons, Bool.and_eq_true, decide_eq_true_eq]; exact ⟨h.1, ih'⟩

/-- A byte outside the array is listed in no array that is inside its size. -/
theorem memRead_none_of_within {n : Nat} {m : Memory} {i : Nat} (h : Memory.within n m = true) (hi : n ≤ i) :
    memRead m i = none := by
  induction m with
  | nil => rfl
  | cons c m ih =>
    obtain ⟨j, w⟩ := c
    simp only [Memory.within, List.all_cons, Bool.and_eq_true, decide_eq_true_eq] at h
    have : j ≠ i := by omega
    simp only [memRead, this, if_false]
    exact ih h.2

/-- An index below the lower bound is not listed. -/
theorem risingFrom_memRead_none {lo : Nat} {m : Memory} {i : Nat} (h : Memory.risingFrom lo m = true) (hi : i < lo) :
    memRead m i = none := by
  induction m generalizing lo with
  | nil => rfl
  | cons c m ih =>
    obtain ⟨j, w⟩ := c
    simp only [Memory.risingFrom, Bool.and_eq_true, decide_eq_true_eq] at h
    have : j ≠ i := by omega
    simp only [memRead, this, if_false]
    exact ih h.2 (by omega)

/-- Two canonical lists that read the same are the same list. -/
theorem risingFrom_ext {lo : Nat} {m m' : Memory} (h : Memory.risingFrom lo m = true)
    (h' : Memory.risingFrom lo m' = true) (hr : ∀ i, memRead m i = memRead m' i) : m = m' := by
  induction m generalizing lo m' with
  | nil =>
    cases m' with
    | nil => rfl
    | cons c m' => have := hr c.1; simp [memRead] at this
  | cons c m ih =>
    obtain ⟨j, w⟩ := c
    simp only [Memory.risingFrom, Bool.and_eq_true, decide_eq_true_eq] at h
    cases m' with
    | nil => have := hr j; simp [memRead] at this
    | cons c' m' =>
      obtain ⟨j', w'⟩ := c'
      simp only [Memory.risingFrom, Bool.and_eq_true, decide_eq_true_eq] at h'
      have hj : j = j' := by
        rcases Nat.lt_trichotomy j j' with hlt | heq | hgt
        · have h1 := hr j
          have h2 : j' ≠ j := by omega
          simp [memRead, h2, risingFrom_memRead_none h'.2 (show j < j' + 1 by omega)] at h1
        · exact heq
        · have h1 := hr j'
          have h2 : j ≠ j' := by omega
          simp [memRead, h2, risingFrom_memRead_none h.2 (show j' < j + 1 by omega)] at h1
      subst hj
      have hw : w = w' := by have := hr j; simpa [memRead] using this
      subst hw
      rw [ih h.2 h'.2 fun i => ?_]
      by_cases hi : j = i
      · subst hi
        rw [risingFrom_memRead_none h.2 (Nat.lt_succ_self j), risingFrom_memRead_none h'.2 (Nat.lt_succ_self j)]
      · have := hr i
        simpa [memRead, hi] using this

/-- Equal memories are equal data: two canonical arrays that read the same are the same list. -/
theorem memory_ext {m m' : Memory} (h : Memory.wf m = true) (h' : Memory.wf m' = true)
    (hr : ∀ i, memRead m i = memRead m' i) : m = m' := risingFrom_ext h h' hr

@[simp] theorem firstBytes_zero (m : Memory) : firstBytes m 0 = some [] := rfl

theorem firstBytes_succ (m : Memory) (n : Nat) (bs : List Byte) (b : Byte) (h : firstBytes m n = some bs)
    (hb : memRead m n = some b) : firstBytes m (n + 1) = some (bs ++ [b]) := by
  simp [firstBytes, h, hb]

theorem firstBytes_length {m : Memory} {n : Nat} {bs : List Byte} (h : firstBytes m n = some bs) : bs.length = n := by
  induction n generalizing bs with
  | zero => simp [firstBytes] at h; simp [← h]
  | succ n ih =>
    simp only [firstBytes] at h
    split at h
    · rename_i cs b h1 h2
      simp only [Option.some.injEq] at h
      simp [← h, ih h1]
    · simp at h

/-- A write at or above `n` leaves bytes 0..n−1. -/
theorem firstBytes_memWrite (m : Memory) (v : Byte) {n i : Nat} (h : n ≤ i) :
    firstBytes (memWrite m i v) n = firstBytes m n := by
  induction n with
  | zero => rfl
  | succ n ih =>
    have hne : n ≠ i := by omega
    simp only [firstBytes, ih (by omega), memRead_memWrite_other m v hne]

/-- A write at `n` appends its byte to bytes 0..n−1. -/
theorem firstBytes_memWrite_succ (m : Memory) (v : Byte) {n : Nat} {bs : List Byte} (h : firstBytes m n = some bs) :
    firstBytes (memWrite m n v) (n + 1) = some (bs ++ [v]) :=
  firstBytes_succ _ _ _ _ (by rw [firstBytes_memWrite m v (Nat.le_refl n), h]) (memRead_memWrite_same m n v)

end Sys2Proof.Machine
end

