-- ==== Sys2Proof/Laws/Ring.lean ====
section
/-! SUPPORT. The index arithmetic of the ring on indices that are in range. -/

namespace Sys2Proof.Machine

theorem nextIndex_lt {p : Params} (h : 2 ≤ p.fifoDepth) (i : Nat) : nextIndex p i < p.fifoDepth :=
  Nat.mod_lt _ (by omega)

theorem nextIndex_eq {p : Params} {i : Nat} (h : i < p.fifoDepth) :
    nextIndex p i = if i + 1 = p.fifoDepth then 0 else i + 1 := by
  unfold nextIndex
  split
  · rename_i h1; rw [h1, Nat.mod_self]
  · exact Nat.mod_eq_of_lt (by omega)

theorem ringDist_eq {p : Params} {a b : Nat} (ha : a < p.fifoDepth) (hb : b < p.fifoDepth) :
    ringDist p a b = if a ≤ b then b - a else b + p.fifoDepth - a := by
  unfold ringDist
  split
  · have : b + p.fifoDepth - a = (b - a) + p.fifoDepth := by omega
    rw [this, Nat.add_mod_right, Nat.mod_eq_of_lt (by omega)]
  · exact Nat.mod_eq_of_lt (by omega)

theorem ringDist_lt {p : Params} (h : 2 ≤ p.fifoDepth) (a b : Nat) : ringDist p a b < p.fifoDepth :=
  Nat.mod_lt _ (by omega)

theorem forward_lt {p : Params} (h : 2 ≤ p.fifoDepth) (i k : Nat) : forward p i k < p.fifoDepth :=
  Nat.mod_lt _ (by omega)

theorem forward_eq {p : Params} {i k : Nat} (hi : i < p.fifoDepth) (hk : k < p.fifoDepth) :
    forward p i k = if i + k < p.fifoDepth then i + k else i + k - p.fifoDepth := by
  unfold forward
  split
  · rename_i h; exact Nat.mod_eq_of_lt h
  · have : i + k = (i + k - p.fifoDepth) + p.fifoDepth := by omega
    rw [this, Nat.add_mod_right, Nat.mod_eq_of_lt (by omega)]
    omega

/-- Going forward by the distance reaches the index. -/
theorem forward_ringDist {p : Params} {a b : Nat} (ha : a < p.fifoDepth) (hb : b < p.fifoDepth) :
    forward p a (ringDist p a b) = b := by
  have h := ringDist_eq ha hb
  have hl := ringDist_lt (p := p) (a := a) (b := b)
  rw [forward_eq ha (by split at h <;> omega)]
  split at h <;> split <;> omega

/-- A length operand fits LEN_W bits, and loses nothing when it is at most MAX_PAYLOAD (R107). -/
theorem maxPayload_lt (p : Params) : p.maxPayload < 2 ^ p.lenW := Nat.lt_log2_self

theorem lengthOperand_lt (p : Params) (b : Byte) : lengthOperand p b < 2 ^ p.lenW :=
  Nat.mod_lt _ (Nat.two_pow_pos _)

theorem lengthOperand_eq {p : Params} {b : Byte} (h : b.toNat ≤ p.maxPayload) : lengthOperand p b = b.toNat :=
  Nat.mod_eq_of_lt (Nat.lt_of_le_of_lt h (maxPayload_lt p))

theorem nextWidx_lt (p : Params) (w : Nat) : nextWidx p w < 2 ^ p.lenW := by
  unfold nextWidx
  split
  · assumption
  · exact Nat.mod_lt _ (Nat.two_pow_pos _)

theorem nextWidx_eq {p : Params} {w : Nat} (h : w < p.maxPayload) : nextWidx p w = w + 1 :=
  if_pos (Nat.lt_of_le_of_lt h (maxPayload_lt p))

theorem timeOperand_lt (p : Params) (t : Nat) : timeOperand p t < 2 ^ p.tsW := Nat.mod_lt _ (Nat.two_pow_pos _)

theorem timeOperand_eq {p : Params} {t : Nat} (h : t < 2 ^ p.tsW) : timeOperand p t = t := Nat.mod_eq_of_lt h

end Sys2Proof.Machine
end

