-- ==== Sys2Proof/Laws/State.lean ====
section
/-! SUPPORT. One lemma per field per register update, true by rfl, so that no proof unfolds a record update. -/

namespace Sys2Proof.Machine.State

variable (s : State)

@[simp] theorem withFifo_cfg (m : Memory) (h : Nat) : (s.withFifo m h).cfg = s.cfg := rfl
@[simp] theorem withFifo_fifoMem (m : Memory) (h : Nat) : (s.withFifo m h).fifoMem = m := rfl
@[simp] theorem withFifo_head (m : Memory) (h : Nat) : (s.withFifo m h).head = h := rfl
@[simp] theorem withFifo_tail (m : Memory) (h : Nat) : (s.withFifo m h).tail = s.tail := rfl
@[simp] theorem withFifo_headSeen (m : Memory) (h : Nat) : (s.withFifo m h).headSeen = s.headSeen := rfl
@[simp] theorem withFifo_tailSeen (m : Memory) (h : Nat) : (s.withFifo m h).tailSeen = s.tailSeen := rfl
@[simp] theorem withFifo_st (m : Memory) (h : Nat) : (s.withFifo m h).st = s.st := rfl
@[simp] theorem withFifo_len (m : Memory) (h : Nat) : (s.withFifo m h).len = s.len := rfl
@[simp] theorem withFifo_widx (m : Memory) (h : Nat) : (s.withFifo m h).widx = s.widx := rfl
@[simp] theorem withFifo_csum (m : Memory) (h : Nat) : (s.withFifo m h).csum = s.csum := rfl
@[simp] theorem withFifo_scratch (m : Memory) (h : Nat) : (s.withFifo m h).scratch = s.scratch := rfl
@[simp] theorem withFifo_lastTs (m : Memory) (h : Nat) : (s.withFifo m h).lastTs = s.lastTs := rfl
@[simp] theorem withFifo_frameValid (m : Memory) (h : Nat) : (s.withFifo m h).frameValid = s.frameValid := rfl
@[simp] theorem withFifo_frameLen (m : Memory) (h : Nat) : (s.withFifo m h).frameLen = s.frameLen := rfl
@[simp] theorem withFifo_framePayload (m : Memory) (h : Nat) : (s.withFifo m h).framePayload = s.framePayload := rfl
@[simp] theorem withFifo_halted (m : Memory) (h : Nat) : (s.withFifo m h).halted = s.halted := rfl
@[simp] theorem withFifo_framesOut (m : Memory) (h : Nat) : (s.withFifo m h).framesOut = s.framesOut := rfl
@[simp] theorem withFifo_submissions (m : Memory) (h : Nat) : (s.withFifo m h).submissions = s.submissions := rfl
@[simp] theorem withFifo_pops (m : Memory) (h : Nat) : (s.withFifo m h).pops = s.pops := rfl
@[simp] theorem withFifo_agenda (m : Memory) (h : Nat) : (s.withFifo m h).agenda = s.agenda := rfl

@[simp] theorem withTail_cfg (i : Nat) : (s.withTail i).cfg = s.cfg := rfl
@[simp] theorem withTail_fifoMem (i : Nat) : (s.withTail i).fifoMem = s.fifoMem := rfl
@[simp] theorem withTail_head (i : Nat) : (s.withTail i).head = s.head := rfl
@[simp] theorem withTail_tail (i : Nat) : (s.withTail i).tail = i := rfl
@[simp] theorem withTail_headSeen (i : Nat) : (s.withTail i).headSeen = s.headSeen := rfl
@[simp] theorem withTail_tailSeen (i : Nat) : (s.withTail i).tailSeen = s.tailSeen := rfl
@[simp] theorem withTail_st (i : Nat) : (s.withTail i).st = s.st := rfl
@[simp] theorem withTail_len (i : Nat) : (s.withTail i).len = s.len := rfl
@[simp] theorem withTail_widx (i : Nat) : (s.withTail i).widx = s.widx := rfl
@[simp] theorem withTail_csum (i : Nat) : (s.withTail i).csum = s.csum := rfl
@[simp] theorem withTail_scratch (i : Nat) : (s.withTail i).scratch = s.scratch := rfl
@[simp] theorem withTail_lastTs (i : Nat) : (s.withTail i).lastTs = s.lastTs := rfl
@[simp] theorem withTail_frameValid (i : Nat) : (s.withTail i).frameValid = s.frameValid := rfl
@[simp] theorem withTail_frameLen (i : Nat) : (s.withTail i).frameLen = s.frameLen := rfl
@[simp] theorem withTail_framePayload (i : Nat) : (s.withTail i).framePayload = s.framePayload := rfl
@[simp] theorem withTail_halted (i : Nat) : (s.withTail i).halted = s.halted := rfl
@[simp] theorem withTail_framesOut (i : Nat) : (s.withTail i).framesOut = s.framesOut := rfl
@[simp] theorem withTail_submissions (i : Nat) : (s.withTail i).submissions = s.submissions := rfl
@[simp] theorem withTail_pops (i : Nat) : (s.withTail i).pops = s.pops := rfl
@[simp] theorem withTail_agenda (i : Nat) : (s.withTail i).agenda = s.agenda := rfl

@[simp] theorem withHeadSeen_cfg (i : Nat) : (s.withHeadSeen i).cfg = s.cfg := rfl
@[simp] theorem withHeadSeen_fifoMem (i : Nat) : (s.withHeadSeen i).fifoMem = s.fifoMem := rfl
@[simp] theorem withHeadSeen_head (i : Nat) : (s.withHeadSeen i).head = s.head := rfl
@[simp] theorem withHeadSeen_tail (i : Nat) : (s.withHeadSeen i).tail = s.tail := rfl
@[simp] theorem withHeadSeen_headSeen (i : Nat) : (s.withHeadSeen i).headSeen = i := rfl
@[simp] theorem withHeadSeen_tailSeen (i : Nat) : (s.withHeadSeen i).tailSeen = s.tailSeen := rfl
@[simp] theorem withHeadSeen_st (i : Nat) : (s.withHeadSeen i).st = s.st := rfl
@[simp] theorem withHeadSeen_len (i : Nat) : (s.withHeadSeen i).len = s.len := rfl
@[simp] theorem withHeadSeen_widx (i : Nat) : (s.withHeadSeen i).widx = s.widx := rfl
@[simp] theorem withHeadSeen_csum (i : Nat) : (s.withHeadSeen i).csum = s.csum := rfl
@[simp] theorem withHeadSeen_scratch (i : Nat) : (s.withHeadSeen i).scratch = s.scratch := rfl
@[simp] theorem withHeadSeen_lastTs (i : Nat) : (s.withHeadSeen i).lastTs = s.lastTs := rfl
@[simp] theorem withHeadSeen_frameValid (i : Nat) : (s.withHeadSeen i).frameValid = s.frameValid := rfl
@[simp] theorem withHeadSeen_frameLen (i : Nat) : (s.withHeadSeen i).frameLen = s.frameLen := rfl
@[simp] theorem withHeadSeen_framePayload (i : Nat) : (s.withHeadSeen i).framePayload = s.framePayload := rfl
@[simp] theorem withHeadSeen_halted (i : Nat) : (s.withHeadSeen i).halted = s.halted := rfl
@[simp] theorem withHeadSeen_framesOut (i : Nat) : (s.withHeadSeen i).framesOut = s.framesOut := rfl
@[simp] theorem withHeadSeen_submissions (i : Nat) : (s.withHeadSeen i).submissions = s.submissions := rfl
@[simp] theorem withHeadSeen_pops (i : Nat) : (s.withHeadSeen i).pops = s.pops := rfl
@[simp] theorem withHeadSeen_agenda (i : Nat) : (s.withHeadSeen i).agenda = s.agenda := rfl

@[simp] theorem withTailSeen_cfg (i : Nat) : (s.withTailSeen i).cfg = s.cfg := rfl
@[simp] theorem withTailSeen_fifoMem (i : Nat) : (s.withTailSeen i).fifoMem = s.fifoMem := rfl
@[simp] theorem withTailSeen_head (i : Nat) : (s.withTailSeen i).head = s.head := rfl
@[simp] theorem withTailSeen_tail (i : Nat) : (s.withTailSeen i).tail = s.tail := rfl
@[simp] theorem withTailSeen_headSeen (i : Nat) : (s.withTailSeen i).headSeen = s.headSeen := rfl
@[simp] theorem withTailSeen_tailSeen (i : Nat) : (s.withTailSeen i).tailSeen = i := rfl
@[simp] theorem withTailSeen_st (i : Nat) : (s.withTailSeen i).st = s.st := rfl
@[simp] theorem withTailSeen_len (i : Nat) : (s.withTailSeen i).len = s.len := rfl
@[simp] theorem withTailSeen_widx (i : Nat) : (s.withTailSeen i).widx = s.widx := rfl
@[simp] theorem withTailSeen_csum (i : Nat) : (s.withTailSeen i).csum = s.csum := rfl
@[simp] theorem withTailSeen_scratch (i : Nat) : (s.withTailSeen i).scratch = s.scratch := rfl
@[simp] theorem withTailSeen_lastTs (i : Nat) : (s.withTailSeen i).lastTs = s.lastTs := rfl
@[simp] theorem withTailSeen_frameValid (i : Nat) : (s.withTailSeen i).frameValid = s.frameValid := rfl
@[simp] theorem withTailSeen_frameLen (i : Nat) : (s.withTailSeen i).frameLen = s.frameLen := rfl
@[simp] theorem withTailSeen_framePayload (i : Nat) : (s.withTailSeen i).framePayload = s.framePayload := rfl
@[simp] theorem withTailSeen_halted (i : Nat) : (s.withTailSeen i).halted = s.halted := rfl
@[simp] theorem withTailSeen_framesOut (i : Nat) : (s.withTailSeen i).framesOut = s.framesOut := rfl
@[simp] theorem withTailSeen_submissions (i : Nat) : (s.withTailSeen i).submissions = s.submissions := rfl
@[simp] theorem withTailSeen_pops (i : Nat) : (s.withTailSeen i).pops = s.pops := rfl
@[simp] theorem withTailSeen_agenda (i : Nat) : (s.withTailSeen i).agenda = s.agenda := rfl

@[simp] theorem withSt_cfg (x : ParseState) : (s.withSt x).cfg = s.cfg := rfl
@[simp] theorem withSt_fifoMem (x : ParseState) : (s.withSt x).fifoMem = s.fifoMem := rfl
@[simp] theorem withSt_head (x : ParseState) : (s.withSt x).head = s.head := rfl
@[simp] theorem withSt_tail (x : ParseState) : (s.withSt x).tail = s.tail := rfl
@[simp] theorem withSt_headSeen (x : ParseState) : (s.withSt x).headSeen = s.headSeen := rfl
@[simp] theorem withSt_tailSeen (x : ParseState) : (s.withSt x).tailSeen = s.tailSeen := rfl
@[simp] theorem withSt_st (x : ParseState) : (s.withSt x).st = x := rfl
@[simp] theorem withSt_len (x : ParseState) : (s.withSt x).len = s.len := rfl
@[simp] theorem withSt_widx (x : ParseState) : (s.withSt x).widx = s.widx := rfl
@[simp] theorem withSt_csum (x : ParseState) : (s.withSt x).csum = s.csum := rfl
@[simp] theorem withSt_scratch (x : ParseState) : (s.withSt x).scratch = s.scratch := rfl
@[simp] theorem withSt_lastTs (x : ParseState) : (s.withSt x).lastTs = s.lastTs := rfl
@[simp] theorem withSt_frameValid (x : ParseState) : (s.withSt x).frameValid = s.frameValid := rfl
@[simp] theorem withSt_frameLen (x : ParseState) : (s.withSt x).frameLen = s.frameLen := rfl
@[simp] theorem withSt_framePayload (x : ParseState) : (s.withSt x).framePayload = s.framePayload := rfl
@[simp] theorem withSt_halted (x : ParseState) : (s.withSt x).halted = s.halted := rfl
@[simp] theorem withSt_framesOut (x : ParseState) : (s.withSt x).framesOut = s.framesOut := rfl
@[simp] theorem withSt_submissions (x : ParseState) : (s.withSt x).submissions = s.submissions := rfl
@[simp] theorem withSt_pops (x : ParseState) : (s.withSt x).pops = s.pops := rfl
@[simp] theorem withSt_agenda (x : ParseState) : (s.withSt x).agenda = s.agenda := rfl

@[simp] theorem withCsum_cfg (v : Byte) : (s.withCsum v).cfg = s.cfg := rfl
@[simp] theorem withCsum_fifoMem (v : Byte) : (s.withCsum v).fifoMem = s.fifoMem := rfl
@[simp] theorem withCsum_head (v : Byte) : (s.withCsum v).head = s.head := rfl
@[simp] theorem withCsum_tail (v : Byte) : (s.withCsum v).tail = s.tail := rfl
@[simp] theorem withCsum_headSeen (v : Byte) : (s.withCsum v).headSeen = s.headSeen := rfl
@[simp] theorem withCsum_tailSeen (v : Byte) : (s.withCsum v).tailSeen = s.tailSeen := rfl
@[simp] theorem withCsum_st (v : Byte) : (s.withCsum v).st = s.st := rfl
@[simp] theorem withCsum_len (v : Byte) : (s.withCsum v).len = s.len := rfl
@[simp] theorem withCsum_widx (v : Byte) : (s.withCsum v).widx = s.widx := rfl
@[simp] theorem withCsum_csum (v : Byte) : (s.withCsum v).csum = v := rfl
@[simp] theorem withCsum_scratch (v : Byte) : (s.withCsum v).scratch = s.scratch := rfl
@[simp] theorem withCsum_lastTs (v : Byte) : (s.withCsum v).lastTs = s.lastTs := rfl
@[simp] theorem withCsum_frameValid (v : Byte) : (s.withCsum v).frameValid = s.frameValid := rfl
@[simp] theorem withCsum_frameLen (v : Byte) : (s.withCsum v).frameLen = s.frameLen := rfl
@[simp] theorem withCsum_framePayload (v : Byte) : (s.withCsum v).framePayload = s.framePayload := rfl
@[simp] theorem withCsum_halted (v : Byte) : (s.withCsum v).halted = s.halted := rfl
@[simp] theorem withCsum_framesOut (v : Byte) : (s.withCsum v).framesOut = s.framesOut := rfl
@[simp] theorem withCsum_submissions (v : Byte) : (s.withCsum v).submissions = s.submissions := rfl
@[simp] theorem withCsum_pops (v : Byte) : (s.withCsum v).pops = s.pops := rfl
@[simp] theorem withCsum_agenda (v : Byte) : (s.withCsum v).agenda = s.agenda := rfl

@[simp] theorem withLength_cfg (n w : Nat) : (s.withLength n w).cfg = s.cfg := rfl
@[simp] theorem withLength_fifoMem (n w : Nat) : (s.withLength n w).fifoMem = s.fifoMem := rfl
@[simp] theorem withLength_head (n w : Nat) : (s.withLength n w).head = s.head := rfl
@[simp] theorem withLength_tail (n w : Nat) : (s.withLength n w).tail = s.tail := rfl
@[simp] theorem withLength_headSeen (n w : Nat) : (s.withLength n w).headSeen = s.headSeen := rfl
@[simp] theorem withLength_tailSeen (n w : Nat) : (s.withLength n w).tailSeen = s.tailSeen := rfl
@[simp] theorem withLength_st (n w : Nat) : (s.withLength n w).st = s.st := rfl
@[simp] theorem withLength_len (n w : Nat) : (s.withLength n w).len = n := rfl
@[simp] theorem withLength_widx (n w : Nat) : (s.withLength n w).widx = w := rfl
@[simp] theorem withLength_csum (n w : Nat) : (s.withLength n w).csum = s.csum := rfl
@[simp] theorem withLength_scratch (n w : Nat) : (s.withLength n w).scratch = s.scratch := rfl
@[simp] theorem withLength_lastTs (n w : Nat) : (s.withLength n w).lastTs = s.lastTs := rfl
@[simp] theorem withLength_frameValid (n w : Nat) : (s.withLength n w).frameValid = s.frameValid := rfl
@[simp] theorem withLength_frameLen (n w : Nat) : (s.withLength n w).frameLen = s.frameLen := rfl
@[simp] theorem withLength_framePayload (n w : Nat) : (s.withLength n w).framePayload = s.framePayload := rfl
@[simp] theorem withLength_halted (n w : Nat) : (s.withLength n w).halted = s.halted := rfl
@[simp] theorem withLength_framesOut (n w : Nat) : (s.withLength n w).framesOut = s.framesOut := rfl
@[simp] theorem withLength_submissions (n w : Nat) : (s.withLength n w).submissions = s.submissions := rfl
@[simp] theorem withLength_pops (n w : Nat) : (s.withLength n w).pops = s.pops := rfl
@[simp] theorem withLength_agenda (n w : Nat) : (s.withLength n w).agenda = s.agenda := rfl

@[simp] theorem withScratch_cfg (m : Memory) : (s.withScratch m).cfg = s.cfg := rfl
@[simp] theorem withScratch_fifoMem (m : Memory) : (s.withScratch m).fifoMem = s.fifoMem := rfl
@[simp] theorem withScratch_head (m : Memory) : (s.withScratch m).head = s.head := rfl
@[simp] theorem withScratch_tail (m : Memory) : (s.withScratch m).tail = s.tail := rfl
@[simp] theorem withScratch_headSeen (m : Memory) : (s.withScratch m).headSeen = s.headSeen := rfl
@[simp] theorem withScratch_tailSeen (m : Memory) : (s.withScratch m).tailSeen = s.tailSeen := rfl
@[simp] theorem withScratch_st (m : Memory) : (s.withScratch m).st = s.st := rfl
@[simp] theorem withScratch_len (m : Memory) : (s.withScratch m).len = s.len := rfl
@[simp] theorem withScratch_widx (m : Memory) : (s.withScratch m).widx = s.widx := rfl
@[simp] theorem withScratch_csum (m : Memory) : (s.withScratch m).csum = s.csum := rfl
@[simp] theorem withScratch_scratch (m : Memory) : (s.withScratch m).scratch = m := rfl
@[simp] theorem withScratch_lastTs (m : Memory) : (s.withScratch m).lastTs = s.lastTs := rfl
@[simp] theorem withScratch_frameValid (m : Memory) : (s.withScratch m).frameValid = s.frameValid := rfl
@[simp] theorem withScratch_frameLen (m : Memory) : (s.withScratch m).frameLen = s.frameLen := rfl
@[simp] theorem withScratch_framePayload (m : Memory) : (s.withScratch m).framePayload = s.framePayload := rfl
@[simp] theorem withScratch_halted (m : Memory) : (s.withScratch m).halted = s.halted := rfl
@[simp] theorem withScratch_framesOut (m : Memory) : (s.withScratch m).framesOut = s.framesOut := rfl
@[simp] theorem withScratch_submissions (m : Memory) : (s.withScratch m).submissions = s.submissions := rfl
@[simp] theorem withScratch_pops (m : Memory) : (s.withScratch m).pops = s.pops := rfl
@[simp] theorem withScratch_agenda (m : Memory) : (s.withScratch m).agenda = s.agenda := rfl

@[simp] theorem withLastTs_cfg (t : Nat) : (s.withLastTs t).cfg = s.cfg := rfl
@[simp] theorem withLastTs_fifoMem (t : Nat) : (s.withLastTs t).fifoMem = s.fifoMem := rfl
@[simp] theorem withLastTs_head (t : Nat) : (s.withLastTs t).head = s.head := rfl
@[simp] theorem withLastTs_tail (t : Nat) : (s.withLastTs t).tail = s.tail := rfl
@[simp] theorem withLastTs_headSeen (t : Nat) : (s.withLastTs t).headSeen = s.headSeen := rfl
@[simp] theorem withLastTs_tailSeen (t : Nat) : (s.withLastTs t).tailSeen = s.tailSeen := rfl
@[simp] theorem withLastTs_st (t : Nat) : (s.withLastTs t).st = s.st := rfl
@[simp] theorem withLastTs_len (t : Nat) : (s.withLastTs t).len = s.len := rfl
@[simp] theorem withLastTs_widx (t : Nat) : (s.withLastTs t).widx = s.widx := rfl
@[simp] theorem withLastTs_csum (t : Nat) : (s.withLastTs t).csum = s.csum := rfl
@[simp] theorem withLastTs_scratch (t : Nat) : (s.withLastTs t).scratch = s.scratch := rfl
@[simp] theorem withLastTs_lastTs (t : Nat) : (s.withLastTs t).lastTs = t := rfl
@[simp] theorem withLastTs_frameValid (t : Nat) : (s.withLastTs t).frameValid = s.frameValid := rfl
@[simp] theorem withLastTs_frameLen (t : Nat) : (s.withLastTs t).frameLen = s.frameLen := rfl
@[simp] theorem withLastTs_framePayload (t : Nat) : (s.withLastTs t).framePayload = s.framePayload := rfl
@[simp] theorem withLastTs_halted (t : Nat) : (s.withLastTs t).halted = s.halted := rfl
@[simp] theorem withLastTs_framesOut (t : Nat) : (s.withLastTs t).framesOut = s.framesOut := rfl
@[simp] theorem withLastTs_submissions (t : Nat) : (s.withLastTs t).submissions = s.submissions := rfl
@[simp] theorem withLastTs_pops (t : Nat) : (s.withLastTs t).pops = s.pops := rfl
@[simp] theorem withLastTs_agenda (t : Nat) : (s.withLastTs t).agenda = s.agenda := rfl

@[simp] theorem withFrameValid_cfg (b : Bool) : (s.withFrameValid b).cfg = s.cfg := rfl
@[simp] theorem withFrameValid_fifoMem (b : Bool) : (s.withFrameValid b).fifoMem = s.fifoMem := rfl
@[simp] theorem withFrameValid_head (b : Bool) : (s.withFrameValid b).head = s.head := rfl
@[simp] theorem withFrameValid_tail (b : Bool) : (s.withFrameValid b).tail = s.tail := rfl
@[simp] theorem withFrameValid_headSeen (b : Bool) : (s.withFrameValid b).headSeen = s.headSeen := rfl
@[simp] theorem withFrameValid_tailSeen (b : Bool) : (s.withFrameValid b).tailSeen = s.tailSeen := rfl
@[simp] theorem withFrameValid_st (b : Bool) : (s.withFrameValid b).st = s.st := rfl
@[simp] theorem withFrameValid_len (b : Bool) : (s.withFrameValid b).len = s.len := rfl
@[simp] theorem withFrameValid_widx (b : Bool) : (s.withFrameValid b).widx = s.widx := rfl
@[simp] theorem withFrameValid_csum (b : Bool) : (s.withFrameValid b).csum = s.csum := rfl
@[simp] theorem withFrameValid_scratch (b : Bool) : (s.withFrameValid b).scratch = s.scratch := rfl
@[simp] theorem withFrameValid_lastTs (b : Bool) : (s.withFrameValid b).lastTs = s.lastTs := rfl
@[simp] theorem withFrameValid_frameValid (b : Bool) : (s.withFrameValid b).frameValid = b := rfl
@[simp] theorem withFrameValid_frameLen (b : Bool) : (s.withFrameValid b).frameLen = s.frameLen := rfl
@[simp] theorem withFrameValid_framePayload (b : Bool) : (s.withFrameValid b).framePayload = s.framePayload := rfl
@[simp] theorem withFrameValid_halted (b : Bool) : (s.withFrameValid b).halted = s.halted := rfl
@[simp] theorem withFrameValid_framesOut (b : Bool) : (s.withFrameValid b).framesOut = s.framesOut := rfl
@[simp] theorem withFrameValid_submissions (b : Bool) : (s.withFrameValid b).submissions = s.submissions := rfl
@[simp] theorem withFrameValid_pops (b : Bool) : (s.withFrameValid b).pops = s.pops := rfl
@[simp] theorem withFrameValid_agenda (b : Bool) : (s.withFrameValid b).agenda = s.agenda := rfl

@[simp] theorem withFrame_cfg (n : Nat) (m : Memory) (f : Frame) : (s.withFrame n m f).cfg = s.cfg := rfl
@[simp] theorem withFrame_fifoMem (n : Nat) (m : Memory) (f : Frame) : (s.withFrame n m f).fifoMem = s.fifoMem := rfl
@[simp] theorem withFrame_head (n : Nat) (m : Memory) (f : Frame) : (s.withFrame n m f).head = s.head := rfl
@[simp] theorem withFrame_tail (n : Nat) (m : Memory) (f : Frame) : (s.withFrame n m f).tail = s.tail := rfl
@[simp] theorem withFrame_headSeen (n : Nat) (m : Memory) (f : Frame) : (s.withFrame n m f).headSeen = s.headSeen := rfl
@[simp] theorem withFrame_tailSeen (n : Nat) (m : Memory) (f : Frame) : (s.withFrame n m f).tailSeen = s.tailSeen := rfl
@[simp] theorem withFrame_st (n : Nat) (m : Memory) (f : Frame) : (s.withFrame n m f).st = s.st := rfl
@[simp] theorem withFrame_len (n : Nat) (m : Memory) (f : Frame) : (s.withFrame n m f).len = s.len := rfl
@[simp] theorem withFrame_widx (n : Nat) (m : Memory) (f : Frame) : (s.withFrame n m f).widx = s.widx := rfl
@[simp] theorem withFrame_csum (n : Nat) (m : Memory) (f : Frame) : (s.withFrame n m f).csum = s.csum := rfl
@[simp] theorem withFrame_scratch (n : Nat) (m : Memory) (f : Frame) : (s.withFrame n m f).scratch = s.scratch := rfl
@[simp] theorem withFrame_lastTs (n : Nat) (m : Memory) (f : Frame) : (s.withFrame n m f).lastTs = s.lastTs := rfl
@[simp] theorem withFrame_frameValid (n : Nat) (m : Memory) (f : Frame) : (s.withFrame n m f).frameValid = true := rfl
@[simp] theorem withFrame_frameLen (n : Nat) (m : Memory) (f : Frame) : (s.withFrame n m f).frameLen = n := rfl
@[simp] theorem withFrame_framePayload (n : Nat) (m : Memory) (f : Frame) : (s.withFrame n m f).framePayload = m := rfl
@[simp] theorem withFrame_halted (n : Nat) (m : Memory) (f : Frame) : (s.withFrame n m f).halted = s.halted := rfl
@[simp] theorem withFrame_framesOut (n : Nat) (m : Memory) (f : Frame) : (s.withFrame n m f).framesOut = s.framesOut ++ [f] := rfl
@[simp] theorem withFrame_submissions (n : Nat) (m : Memory) (f : Frame) : (s.withFrame n m f).submissions = s.submissions := rfl
@[simp] theorem withFrame_pops (n : Nat) (m : Memory) (f : Frame) : (s.withFrame n m f).pops = s.pops := rfl
@[simp] theorem withFrame_agenda (n : Nat) (m : Memory) (f : Frame) : (s.withFrame n m f).agenda = s.agenda := rfl

@[simp] theorem withHalted_cfg (b : Bool) : (s.withHalted b).cfg = s.cfg := rfl
@[simp] theorem withHalted_fifoMem (b : Bool) : (s.withHalted b).fifoMem = s.fifoMem := rfl
@[simp] theorem withHalted_head (b : Bool) : (s.withHalted b).head = s.head := rfl
@[simp] theorem withHalted_tail (b : Bool) : (s.withHalted b).tail = s.tail := rfl
@[simp] theorem withHalted_headSeen (b : Bool) : (s.withHalted b).headSeen = s.headSeen := rfl
@[simp] theorem withHalted_tailSeen (b : Bool) : (s.withHalted b).tailSeen = s.tailSeen := rfl
@[simp] theorem withHalted_st (b : Bool) : (s.withHalted b).st = s.st := rfl
@[simp] theorem withHalted_len (b : Bool) : (s.withHalted b).len = s.len := rfl
@[simp] theorem withHalted_widx (b : Bool) : (s.withHalted b).widx = s.widx := rfl
@[simp] theorem withHalted_csum (b : Bool) : (s.withHalted b).csum = s.csum := rfl
@[simp] theorem withHalted_scratch (b : Bool) : (s.withHalted b).scratch = s.scratch := rfl
@[simp] theorem withHalted_lastTs (b : Bool) : (s.withHalted b).lastTs = s.lastTs := rfl
@[simp] theorem withHalted_frameValid (b : Bool) : (s.withHalted b).frameValid = s.frameValid := rfl
@[simp] theorem withHalted_frameLen (b : Bool) : (s.withHalted b).frameLen = s.frameLen := rfl
@[simp] theorem withHalted_framePayload (b : Bool) : (s.withHalted b).framePayload = s.framePayload := rfl
@[simp] theorem withHalted_halted (b : Bool) : (s.withHalted b).halted = b := rfl
@[simp] theorem withHalted_framesOut (b : Bool) : (s.withHalted b).framesOut = s.framesOut := rfl
@[simp] theorem withHalted_submissions (b : Bool) : (s.withHalted b).submissions = s.submissions := rfl
@[simp] theorem withHalted_pops (b : Bool) : (s.withHalted b).pops = s.pops := rfl
@[simp] theorem withHalted_agenda (b : Bool) : (s.withHalted b).agenda = s.agenda := rfl

@[simp] theorem withAnswer_cfg (b : Byte) (a : Answer) : (s.withAnswer b a).cfg = s.cfg := rfl
@[simp] theorem withAnswer_fifoMem (b : Byte) (a : Answer) : (s.withAnswer b a).fifoMem = s.fifoMem := rfl
@[simp] theorem withAnswer_head (b : Byte) (a : Answer) : (s.withAnswer b a).head = s.head := rfl
@[simp] theorem withAnswer_tail (b : Byte) (a : Answer) : (s.withAnswer b a).tail = s.tail := rfl
@[simp] theorem withAnswer_headSeen (b : Byte) (a : Answer) : (s.withAnswer b a).headSeen = s.headSeen := rfl
@[simp] theorem withAnswer_tailSeen (b : Byte) (a : Answer) : (s.withAnswer b a).tailSeen = s.tailSeen := rfl
@[simp] theorem withAnswer_st (b : Byte) (a : Answer) : (s.withAnswer b a).st = s.st := rfl
@[simp] theorem withAnswer_len (b : Byte) (a : Answer) : (s.withAnswer b a).len = s.len := rfl
@[simp] theorem withAnswer_widx (b : Byte) (a : Answer) : (s.withAnswer b a).widx = s.widx := rfl
@[simp] theorem withAnswer_csum (b : Byte) (a : Answer) : (s.withAnswer b a).csum = s.csum := rfl
@[simp] theorem withAnswer_scratch (b : Byte) (a : Answer) : (s.withAnswer b a).scratch = s.scratch := rfl
@[simp] theorem withAnswer_lastTs (b : Byte) (a : Answer) : (s.withAnswer b a).lastTs = s.lastTs := rfl
@[simp] theorem withAnswer_frameValid (b : Byte) (a : Answer) : (s.withAnswer b a).frameValid = s.frameValid := rfl
@[simp] theorem withAnswer_frameLen (b : Byte) (a : Answer) : (s.withAnswer b a).frameLen = s.frameLen := rfl
@[simp] theorem withAnswer_framePayload (b : Byte) (a : Answer) : (s.withAnswer b a).framePayload = s.framePayload := rfl
@[simp] theorem withAnswer_halted (b : Byte) (a : Answer) : (s.withAnswer b a).halted = s.halted := rfl
@[simp] theorem withAnswer_framesOut (b : Byte) (a : Answer) : (s.withAnswer b a).framesOut = s.framesOut := rfl
@[simp] theorem withAnswer_submissions (b : Byte) (a : Answer) : (s.withAnswer b a).submissions = s.submissions ++ [⟨b, a⟩] := rfl
@[simp] theorem withAnswer_pops (b : Byte) (a : Answer) : (s.withAnswer b a).pops = s.pops := rfl
@[simp] theorem withAnswer_agenda (b : Byte) (a : Answer) : (s.withAnswer b a).agenda = s.agenda := rfl

@[simp] theorem withPopResult_cfg (r : Option Byte) : (s.withPopResult r).cfg = s.cfg := rfl
@[simp] theorem withPopResult_fifoMem (r : Option Byte) : (s.withPopResult r).fifoMem = s.fifoMem := rfl
@[simp] theorem withPopResult_head (r : Option Byte) : (s.withPopResult r).head = s.head := rfl
@[simp] theorem withPopResult_tail (r : Option Byte) : (s.withPopResult r).tail = s.tail := rfl
@[simp] theorem withPopResult_headSeen (r : Option Byte) : (s.withPopResult r).headSeen = s.headSeen := rfl
@[simp] theorem withPopResult_tailSeen (r : Option Byte) : (s.withPopResult r).tailSeen = s.tailSeen := rfl
@[simp] theorem withPopResult_st (r : Option Byte) : (s.withPopResult r).st = s.st := rfl
@[simp] theorem withPopResult_len (r : Option Byte) : (s.withPopResult r).len = s.len := rfl
@[simp] theorem withPopResult_widx (r : Option Byte) : (s.withPopResult r).widx = s.widx := rfl
@[simp] theorem withPopResult_csum (r : Option Byte) : (s.withPopResult r).csum = s.csum := rfl
@[simp] theorem withPopResult_scratch (r : Option Byte) : (s.withPopResult r).scratch = s.scratch := rfl
@[simp] theorem withPopResult_lastTs (r : Option Byte) : (s.withPopResult r).lastTs = s.lastTs := rfl
@[simp] theorem withPopResult_frameValid (r : Option Byte) : (s.withPopResult r).frameValid = s.frameValid := rfl
@[simp] theorem withPopResult_frameLen (r : Option Byte) : (s.withPopResult r).frameLen = s.frameLen := rfl
@[simp] theorem withPopResult_framePayload (r : Option Byte) : (s.withPopResult r).framePayload = s.framePayload := rfl
@[simp] theorem withPopResult_halted (r : Option Byte) : (s.withPopResult r).halted = s.halted := rfl
@[simp] theorem withPopResult_framesOut (r : Option Byte) : (s.withPopResult r).framesOut = s.framesOut := rfl
@[simp] theorem withPopResult_submissions (r : Option Byte) : (s.withPopResult r).submissions = s.submissions := rfl
@[simp] theorem withPopResult_pops (r : Option Byte) : (s.withPopResult r).pops = s.pops ++ [r] := rfl
@[simp] theorem withPopResult_agenda (r : Option Byte) : (s.withPopResult r).agenda = s.agenda := rfl

@[simp] theorem withAgenda_cfg (l : List Event) : (s.withAgenda l).cfg = s.cfg := rfl
@[simp] theorem withAgenda_fifoMem (l : List Event) : (s.withAgenda l).fifoMem = s.fifoMem := rfl
@[simp] theorem withAgenda_head (l : List Event) : (s.withAgenda l).head = s.head := rfl
@[simp] theorem withAgenda_tail (l : List Event) : (s.withAgenda l).tail = s.tail := rfl
@[simp] theorem withAgenda_headSeen (l : List Event) : (s.withAgenda l).headSeen = s.headSeen := rfl
@[simp] theorem withAgenda_tailSeen (l : List Event) : (s.withAgenda l).tailSeen = s.tailSeen := rfl
@[simp] theorem withAgenda_st (l : List Event) : (s.withAgenda l).st = s.st := rfl
@[simp] theorem withAgenda_len (l : List Event) : (s.withAgenda l).len = s.len := rfl
@[simp] theorem withAgenda_widx (l : List Event) : (s.withAgenda l).widx = s.widx := rfl
@[simp] theorem withAgenda_csum (l : List Event) : (s.withAgenda l).csum = s.csum := rfl
@[simp] theorem withAgenda_scratch (l : List Event) : (s.withAgenda l).scratch = s.scratch := rfl
@[simp] theorem withAgenda_lastTs (l : List Event) : (s.withAgenda l).lastTs = s.lastTs := rfl
@[simp] theorem withAgenda_frameValid (l : List Event) : (s.withAgenda l).frameValid = s.frameValid := rfl
@[simp] theorem withAgenda_frameLen (l : List Event) : (s.withAgenda l).frameLen = s.frameLen := rfl
@[simp] theorem withAgenda_framePayload (l : List Event) : (s.withAgenda l).framePayload = s.framePayload := rfl
@[simp] theorem withAgenda_halted (l : List Event) : (s.withAgenda l).halted = s.halted := rfl
@[simp] theorem withAgenda_framesOut (l : List Event) : (s.withAgenda l).framesOut = s.framesOut := rfl
@[simp] theorem withAgenda_submissions (l : List Event) : (s.withAgenda l).submissions = s.submissions := rfl
@[simp] theorem withAgenda_pops (l : List Event) : (s.withAgenda l).pops = s.pops := rfl
@[simp] theorem withAgenda_agenda (l : List Event) : (s.withAgenda l).agenda = l := rfl

end Sys2Proof.Machine.State
end

