-- ==== Sys2Proof/Laws/Ops.lean ====
section
/-! SUPPORT. One lemma per shared operation that says once everything it can do when it answers a next state, and the operation
each move of an agent selects. -/

namespace Sys2Proof.Machine

@[simp] theorem andThen_next (s : State) (f : State → Result) : andThen (.next s) f = f s := rfl
@[simp] theorem andThen_fault (e : Fault) (f : State → Result) : andThen (.fault e) f = .fault e := rfl
@[simp] theorem andThen_refused (e : Refusal) (f : State → Result) : andThen (.refused e) f = .refused e := rfl

/-- A sequence answers next exactly when both parts do. -/
theorem andThen_eq_next {r : Result} {f : State → Result} {t : State} :
    andThen r f = .next t ↔ ∃ s, r = .next s ∧ f s = .next t := by
  cases r <;> simp

theorem wrFull_iff (s : State) : wrFull s = true ↔ nextIndex s.cfg s.head = s.tailSeen := by simp [wrFull]

theorem rdEmpty_iff (s : State) : rdEmpty s = true ↔ s.tail = s.headSeen := by simp [rdEmpty]

theorem stale_iff (s : State) (t : Nat) : stale s t = true ↔ s.cfg.timeout < timeGap s t := by simp [stale]

/-- What PUSH can do. -/
theorem pushByte_cases {b : Byte} {s t : State} (h : pushByte b s = .next t) :
    (wrFull s = true ∧ t = s.withAnswer b .rejectedChannelFull) ∨
      (wrFull s = false ∧ s.head < s.cfg.fifoDepth ∧
        t = (s.withFifo (memWrite s.fifoMem s.head b) (nextIndex s.cfg s.head)).withAnswer b .accepted) := by
  unfold pushByte at h
  split at h
  · rename_i hf
    exact .inl ⟨hf, by simpa [recover] using (Host.Outcome.next.inj h).symm⟩
  · rename_i hf
    split at h
    · rename_i hl
      exact .inr ⟨by simpa using hf, hl, (Host.Outcome.next.inj h).symm⟩
    · cases h

/-- What the read of a slot can do. -/
theorem slotByte_ok {s : State} {i : Nat} {v : Byte} :
    slotByte s i = .ok v ↔ i < s.cfg.fifoDepth ∧ memRead s.fifoMem i = some v := by
  unfold slotByte
  split
  · rename_i hi
    split
    · rename_i w hw; simp [hi, hw]
    · rename_i hw; simp [hw]
  · rename_i hi; simp [hi]

/-- What POP can do. -/
theorem popByte_cases {s t : State} {r : Option Byte} (h : popByte s = .ok (r, t)) :
    (rdEmpty s = true ∧ r = none ∧ t = s.withPopResult none) ∨
      (∃ v, rdEmpty s = false ∧ s.tail < s.cfg.fifoDepth ∧ memRead s.fifoMem s.tail = some v ∧ r = some v ∧
        t = (s.withTail (nextIndex s.cfg s.tail)).withPopResult (some v)) := by
  unfold popByte at h
  split at h
  · rename_i he
    simp only [Except.ok.injEq, Prod.mk.injEq] at h
    exact .inl ⟨he, h.1.symm, h.2.symm⟩
  · rename_i he
    split at h
    · rename_i v hv
      rw [slotByte_ok] at hv
      simp only [Except.ok.injEq, Prod.mk.injEq] at h
      exact .inr ⟨v, by simpa using he, hv.1, hv.2, h.1.symm, h.2.symm⟩
    · cases h

/-- POP on a readable channel. -/
theorem popByte_some {s : State} {v : Byte} (he : rdEmpty s = false) (ht : s.tail < s.cfg.fifoDepth)
    (hv : memRead s.fifoMem s.tail = some v) :
    popByte s = .ok (some v, (s.withTail (nextIndex s.cfg s.tail)).withPopResult (some v)) := by
  have h := slotByte_ok.mpr ⟨ht, hv⟩
  simp [popByte, he, h]

/-- What the store of a payload byte can do. -/
theorem storePayload_cases {b : Byte} {s t : State} (h : storePayload b s = .next t) :
    s.widx < s.cfg.maxPayload ∧
      t = ((s.withScratch (memWrite s.scratch s.widx b)).withCsum (s.csum + b)).withLength s.len
        (nextWidx s.cfg s.widx) := by
  unfold storePayload storeScratch at h
  split at h
  · rename_i hw
    exact ⟨hw, by simpa [incIndex, addSum] using (Host.Outcome.next.inj h).symm⟩
  · cases h

theorem storePayload_next {b : Byte} {s : State} (h : s.widx < s.cfg.maxPayload) :
    storePayload b s = .next (((s.withScratch (memWrite s.scratch s.widx b)).withCsum (s.csum + b)).withLength s.len
      (nextWidx s.cfg s.widx)) := by
  simp [storePayload, storeScratch, h, incIndex, addSum]

/-- What EMIT can do. -/
theorem emit_cases {s t : State} (h : emit s = .next t) :
    s.len ≤ s.cfg.maxPayload ∧ ∃ bs, firstBytes s.scratch s.len = some bs ∧
      t = s.withFrame s.len s.scratch ⟨s.len, bs⟩ := by
  unfold emit at h
  split at h
  · rename_i hl
    split at h
    · rename_i bs hb
      exact ⟨hl, bs, hb, (Host.Outcome.next.inj h).symm⟩
    · cases h
  · cases h

theorem emit_next {s : State} {bs : List Byte} (hl : s.len ≤ s.cfg.maxPayload)
    (hb : firstBytes s.scratch s.len = some bs) : emit s = .next (s.withFrame s.len s.scratch ⟨s.len, bs⟩) := by
  simp [emit, hl, hb]

/-- The state a feed dispatches its byte in: cleared if the byte is stale, then stamped (R150). -/
def beforeDispatch (t : Nat) (s : State) : State := stampTime t (if stale s t then decoderClear s else s)

/-- A feed is its dispatch in that state. -/
theorem feed_eq_dispatch (b : Byte) (t : Nat) (s : State) : feed b t s = dispatch b (beforeDispatch t s) := by
  unfold feed staleStep beforeDispatch
  split <;> rfl

/-- What CONSUME can do. -/
theorem execConsume_cases {t : Nat} {s u : State} (h : execConsume t s = .next u) :
    (rdEmpty s = true ∧ u = (s.withPopResult none).withFrameValid false) ∨
      (∃ v, rdEmpty s = false ∧ s.tail < s.cfg.fifoDepth ∧ memRead s.fifoMem s.tail = some v ∧
        feed v t (((s.withTail (nextIndex s.cfg s.tail)).withPopResult (some v)).withFrameValid false) = .next u) := by
  unfold execConsume at h
  split at h
  · rename_i b s' hp
    rcases popByte_cases hp with ⟨_, hr, _⟩ | ⟨v, he, ht, hv, hr, hs⟩
    · cases hr
    · cases hr
      exact .inr ⟨_, he, ht, hv, by rw [← hs]; exact h⟩
  · rename_i s' hp
    rcases popByte_cases hp with ⟨he, _, hs⟩ | ⟨v, _, _, _, hr, _⟩
    · exact .inl ⟨he, by rw [← Host.Outcome.next.inj h, hs]⟩
    · cases hr
  · cases h

/-! ## The operation each move selects -/

theorem fetch_wr (s : State) (v : Bool) (d : Byte) : fetch s (.wr v d) = .ok (if v then .push d else .wnop) := by
  have := d.isLt
  cases v
  · have h1 : d.toNat < 512 := by omega
    have h2 : d.toNat / 256 = 0 := by omega
    simp [fetch, driveOf, decode, decodeWr, Format.width, h1, h2]
  · have h1 : 256 + d.toNat < 512 := by omega
    have h2 : (256 + d.toNat) / 256 = 1 := by omega
    simp [fetch, driveOf, decode, decodeWr, Format.width, h1, h2]
    apply BitVec.eq_of_toNat_eq
    simp only [BitVec.toNat_ofNat]
    omega

theorem fetch_rd (s : State) (stopReq : Bool) (t : Nat) :
    fetch s (.rd stopReq t) =
      .ok (if s.halted then .halted else if stopReq then .stop else if rdEmpty s then .cidle else .consume t) := by
  cases hh : s.halted <;> cases stopReq <;> cases he : rdEmpty s <;>
    simp [fetch, driveOf, decode, decodeCon, Format.width, hh, he]

theorem fetch_sync_head (s : State) (k : Nat) : fetch s (.sync .head k) = .ok (.syncHead k) := rfl

theorem fetch_sync_tail (s : State) (k : Nat) : fetch s (.sync .tail k) = .ok (.syncTail k) := rfl

theorem fetch_rst (s : State) (r : Bool) :
    fetch s (.rst r) = if r then .error .selectsNothing else .ok .reset := by
  cases r <;> rfl

theorem fetch_rdPort (s : State) (p : Bool) : fetch s (.rdPort p) = .ok (if p then .pop else .rnop) := by
  cases p <;> rfl

theorem fetch_stl (s : State) (t : Nat) :
    fetch s (.stl t) = if stale s t then .ok .staleClr else .error .selectsNothing := by
  cases h : stale s t <;> simp [fetch, driveOf, decode, decodeStl, Format.width, h]

theorem ofCode_code (x : ParseState) : ParseState.ofCode x.code = some x := by cases x <;> rfl

theorem fetch_dec (s : State) (b : Byte) : fetch s (.dec b) = .ok ((selected s b).toInstr b) := by
  have hb := b.isLt
  have hc : s.st.code ≤ 4 := by cases s.st <;> simp [ParseState.code]
  have h1 : s.st.code * 256 + b.toNat < 2048 := by omega
  have h2 : (s.st.code * 256 + b.toNat) / 256 = s.st.code := by omega
  have h3 : BitVec.ofNat 8 (s.st.code * 256 + b.toNat) = b := by
    apply BitVec.eq_of_toNat_eq
    simp only [BitVec.toNat_ofNat]
    omega
  simp only [fetch, driveOf, decode, decodeDec, Format.width, fedByte, h2, h3, ofCode_code, selected]
  rw [if_pos (by simpa using h1)]

theorem fetch_cs (s : State) (op : BitVec 2) (b : Byte) : fetch s (.cs op b) = .ok (decodeCs op.toNat b) := by
  simp [fetch, driveOf, decode, Format.width, op.isLt]

theorem fetch_lc (s : State) (op : BitVec 2) (b : Byte) : fetch s (.lc op b) = .ok (decodeLc op.toNat b) := by
  simp [fetch, driveOf, decode, Format.width, op.isLt]

theorem fetch_wd (s : State) (w : Bool) (t : Nat) : fetch s (.wd w t) = .ok (if w then .wdStamp t else .wdHold) := by
  cases w <;> rfl

/-- The dispatch runs exactly the transition's operation. -/
theorem exec_toInstr (x : Transition) (b : Byte) (s : State) : exec (x.toInstr b) s = runTransition x b s := by
  cases x <;> rfl

/-- What a step can do: nothing when no move comes; else the move's operation, or nothing when the move selects none. -/
theorem step_cases {s t : State} (h : step s = .next t) :
    (s.agenda = [] ∧ t = s) ∨
      ∃ e rest, s.agenda = e :: rest ∧
        ((∃ i, fetch (s.withAgenda rest) e = .ok i ∧ exec i (s.withAgenda rest) = .next t) ∨
          (fetch (s.withAgenda rest) e = .error .selectsNothing ∧ t = s.withAgenda rest)) := by
  unfold step at h
  split at h
  · rename_i ha
    exact .inl ⟨ha, (Host.Outcome.next.inj h).symm⟩
  · rename_i e rest ha
    refine .inr ⟨e, rest, ha, ?_⟩
    split at h
    · rename_i i hf; exact .inl ⟨i, hf, h⟩
    · rename_i r hf
      cases r with
      | selectsNothing => exact .inr ⟨hf, (Host.Outcome.next.inj h).symm⟩
      | keyTooWide => cases h
      | reservedState => cases h

end Sys2Proof.Machine
end

