-- ==== Sys2Proof/Laws/PerInstr.lean ====
section
/-! SUPPORT. Per operation, as syntax: its encoded key fits its format's width and lies in its row of the table. -/

namespace Sys2Proof.Laws.RowMatch

/-- The key an operation encodes to fits its format and lies in the operation's row: (key AND mask) = match (R110). -/
def Statement (i : Instr) : Prop :=
  (encode i).key < 2 ^ (encode i).fmt.width ∧ (encode i).key &&& (tableRow i).1 = (tableRow i).2

/-- A key made of high bits above a byte, under a mask of those bits, is the high bits. -/
theorem high_and (h m : Nat) (b : Byte) (hh : h % 256 = 0) (hm : m % 256 = 0) :
    (h + b.toNat) &&& m = h &&& m := by
  obtain ⟨x, rfl⟩ : ∃ x, h = 2 ^ 8 * x := ⟨h / 256, by omega⟩
  obtain ⟨y, rfl⟩ : ∃ y, m = 2 ^ 8 * y := ⟨m / 256, by omega⟩
  apply Nat.eq_of_testBit_eq
  intro j
  simp only [Nat.testBit_and, Nat.testBit_two_pow_mul]
  by_cases hj : 8 ≤ j
  · rw [Nat.testBit_two_pow_mul_add _ b.isLt]
    simp [hj, show ¬ j < 8 by omega]
  · simp [hj]

theorem push (b : Byte) : Statement (.push b) := by
  have := b.isLt
  refine ⟨?_, high_and 256 0x100 b rfl rfl⟩
  simp only [encode, Format.width]
  omega

theorem wnop : Statement .wnop := ⟨by decide, by decide⟩

theorem pop : Statement .pop := ⟨by decide, by decide⟩

theorem rnop : Statement .rnop := ⟨by decide, by decide⟩

theorem syncHead (k : Nat) : Statement (.syncHead k) := by
  simp [Statement, encode, tableRow, Format.width]

theorem syncTail (k : Nat) : Statement (.syncTail k) := by
  simp [Statement, encode, tableRow, Format.width]

theorem halted : Statement .halted := ⟨by decide, by decide⟩

theorem stop : Statement .stop := ⟨by decide, by decide⟩

theorem consume (t : Nat) : Statement (.consume t) := by
  simp [Statement, encode, tableRow, Format.width]

theorem cidle : Statement .cidle := ⟨by decide, by decide⟩

theorem reset : Statement .reset := ⟨by decide, by decide⟩

theorem staleClr : Statement .staleClr := ⟨by decide, by decide⟩

theorem ws1Hit : Statement .ws1Hit := ⟨by decide, by decide⟩

theorem ws1Miss (b : Byte) : Statement (.ws1Miss b) := by
  have := b.isLt
  refine ⟨?_, by simpa [encode, tableRow] using high_and 0 0x700 b rfl rfl⟩
  simp only [encode, Format.width]
  omega

theorem ws2Hit : Statement .ws2Hit := ⟨by decide, by decide⟩

theorem ws2Miss (b : Byte) : Statement (.ws2Miss b) := by
  have := b.isLt
  refine ⟨?_, high_and 256 0x700 b rfl rfl⟩
  simp only [encode, Format.width]
  omega

theorem lenOver (b : Byte) : Statement (.lenOver b) := by
  have := b.isLt
  refine ⟨?_, high_and 512 0x700 b rfl rfl⟩
  simp only [encode, Format.width]
  omega

theorem lenZero : Statement .lenZero := ⟨by decide, by decide⟩

theorem lenOk (b : Byte) : Statement (.lenOk b) := by
  have := b.isLt
  refine ⟨?_, high_and 512 0x700 b rfl rfl⟩
  simp only [encode, Format.width]
  omega

theorem payLast (b : Byte) : Statement (.payLast b) := by
  have := b.isLt
  refine ⟨?_, high_and 768 0x700 b rfl rfl⟩
  simp only [encode, Format.width]
  omega

theorem payMore (b : Byte) : Statement (.payMore b) := by
  have := b.isLt
  refine ⟨?_, high_and 768 0x700 b rfl rfl⟩
  simp only [encode, Format.width]
  omega

theorem chkOk (b : Byte) : Statement (.chkOk b) := by
  have := b.isLt
  refine ⟨?_, high_and 1024 0x700 b rfl rfl⟩
  simp only [encode, Format.width]
  omega

theorem chkBad (b : Byte) : Statement (.chkBad b) := by
  have := b.isLt
  refine ⟨?_, high_and 1024 0x700 b rfl rfl⟩
  simp only [encode, Format.width]
  omega

theorem csHold : Statement .csHold := ⟨by decide, by decide⟩

theorem csClear : Statement .csClear := ⟨by decide, by decide⟩

theorem csSeed (b : Byte) : Statement (.csSeed b) := by
  simp [Statement, encode, tableRow, Format.width]

theorem csAdd (b : Byte) : Statement (.csAdd b) := by
  simp [Statement, encode, tableRow, Format.width]

theorem lcHold : Statement .lcHold := ⟨by decide, by decide⟩

theorem lcClear : Statement .lcClear := ⟨by decide, by decide⟩

theorem lcLoad (b : Byte) : Statement (.lcLoad b) := by
  simp [Statement, encode, tableRow, Format.width]

theorem lcInc : Statement .lcInc := ⟨by decide, by decide⟩

theorem wdStamp (t : Nat) : Statement (.wdStamp t) := by
  simp [Statement, encode, tableRow, Format.width]

theorem wdHold : Statement .wdHold := ⟨by decide, by decide⟩

end Sys2Proof.Laws.RowMatch
end

