-- ==== Sys2Proof/Tests/Slice0.lean ====
section
/-! SUPPORT. The model's own tests. Expected results are those of the rules' examples and of spec/95_test_vectors.md (ids T, V, P),
named beside each. The theorems named `witness_…` each give a state and operands that meet all hypotheses of one obligation. -/

namespace Sys2Proof.Tests

open Sys2Proof.Machine

/-- The next state of an outcome. -/
def after : Result → Option State
  | .next s => some s
  | _ => none

/-- An outcome with a next state is that next state. -/
theorem eq_next_of_after {r : Result} {s : State} (h : after r = some s) : r = .next s := by
  cases r <;> simp [after] at h
  rw [h]

/-- The build of the worked examples (95_test_vectors.md): FIFO_DEPTH = 8, TS_W = 16, TIMEOUT = 100. -/
def vectorBuild : Params := Params.openBuild 2 15 100

/-- That build after reset. -/
def vectorReset : State := State.resetWith vectorBuild []

/-- The block with FIFO_DEPTH = 4 of section 2.5 of the vectors. -/
def build4 : Params := { vectorBuild with fifoDepth := 4 }

/-- A FIFO state (`head`, `tail`, `head_seen`, `tail_seen`) with D = 4. -/
def fifoAt (h t hs ts : Nat) (m : Memory) : State :=
  { State.resetWith build4 [] with head := h, tail := t, headSeen := hs, tailSeen := ts, fifoMem := m }

/-- A FIFO state as its four indices. -/
def indices (s : State) : Nat × Nat × Nat × Nat := (s.head, s.tail, s.headSeen, s.tailSeen)

/-- A decoder state (`st`, `len`, `widx`, `csum`). -/
def decoderAt (st : ParseState) (len widx : Nat) (csum : Byte) (scratch : Memory) (lastTs : Nat) : State :=
  { vectorReset with st := st, len := len, widx := widx, csum := csum, scratch := scratch, lastTs := lastTs }

/-- The decoder's registers. -/
def decoder (s : State) : ParseState × Nat × Nat × Byte := (s.st, s.len, s.widx, s.csum)

/-! ## Ill-formed operations are refused, one per check -/

theorem test_wellFormed_consume_time_too_wide : wellFormed vectorBuild (.consume 65536) = false := by decide
theorem test_wellFormed_stamp_time_too_wide : wellFormed vectorBuild (.wdStamp 65536) = false := by decide
theorem test_wellFormed_syncHead_whole_turn : wellFormed vectorBuild (.syncHead 8) = false := by decide
theorem test_wellFormed_syncTail_whole_turn : wellFormed vectorBuild (.syncTail 8) = false := by decide
theorem test_wellFormed_ws1Miss_of_sync1 : wellFormed vectorBuild (.ws1Miss 0xAA) = false := by decide
theorem test_wellFormed_ws2Miss_of_sync2 : wellFormed vectorBuild (.ws2Miss 0x55) = false := by decide
theorem test_wellFormed_lenOver_of_legal_length : wellFormed vectorBuild (.lenOver 0x20) = false := by decide
theorem test_wellFormed_lenOk_of_zero : wellFormed vectorBuild (.lenOk 0x00) = false := by decide
theorem test_wellFormed_lenOk_of_oversized : wellFormed vectorBuild (.lenOk 0x21) = false := by decide

/-! ## Keys written out from the spec's encodings -/

/-- The state conditions of a payload byte that is not the last and of a checksum byte that does not match. -/
def noConds : Conds := { lcLast := false, csMatch := false }

/-- Format WR (R97), and P3's keys 111 and 155. -/
theorem test_decode_wr :
    decode vectorBuild noConds { fmt := .wr, key := 0b100010001 } = .ok (.push 0x11) ∧
    decode vectorBuild noConds { fmt := .wr, key := 0b101010101 } = .ok (.push 0x55) ∧
    decode vectorBuild noConds { fmt := .wr, key := 0b011111111 } = .ok .wnop := ⟨rfl, rfl, rfl⟩

/-- Format RD (R98). -/
theorem test_decode_rd :
    decode vectorBuild noConds { fmt := .rd, key := 0b1 } = .ok .pop ∧
    decode vectorBuild noConds { fmt := .rd, key := 0b0 } = .ok .rnop := ⟨rfl, rfl⟩

/-- Format CON (R99), first match wins; P4's keys. -/
theorem test_decode_con :
    decode vectorBuild noConds { fmt := .con, key := 0b100 } = .ok .halted ∧
    decode vectorBuild noConds { fmt := .con, key := 0b111 } = .ok .halted ∧
    decode vectorBuild noConds { fmt := .con, key := 0b010 } = .ok .stop ∧
    decode vectorBuild noConds { fmt := .con, key := 0b011 } = .ok .stop ∧
    decode vectorBuild noConds { fmt := .con, key := 0b000, time := 10 } = .ok (.consume 10) ∧
    decode vectorBuild noConds { fmt := .con, key := 0b001 } = .ok .cidle := ⟨rfl, rfl, rfl, rfl, rfl, rfl⟩

/-- Format DEC (R100) in the three states without a state condition; P1's keys 000, 0AA, 113, 155, 221, 200, 202. -/
theorem test_decode_dec :
    decode vectorBuild noConds { fmt := .dec, key := 0b00000000000 } = .ok (.ws1Miss 0x00) ∧
    decode vectorBuild noConds { fmt := .dec, key := 0b00010101010 } = .ok .ws1Hit ∧
    decode vectorBuild noConds { fmt := .dec, key := 0b00100010011 } = .ok (.ws2Miss 0x13) ∧
    decode vectorBuild noConds { fmt := .dec, key := 0b00101010101 } = .ok .ws2Hit ∧
    decode vectorBuild noConds { fmt := .dec, key := 0b01000100001 } = .ok (.lenOver 0x21) ∧
    decode vectorBuild noConds { fmt := .dec, key := 0b01000000000 } = .ok .lenZero ∧
    decode vectorBuild noConds { fmt := .dec, key := 0b01000000010 } = .ok (.lenOk 0x02) :=
  ⟨rfl, rfl, rfl, rfl, rfl, rfl, rfl⟩

/-- Format DEC (R100) under its conditions; P1's keys 310, 320, 432. -/
theorem test_decode_dec_conditions :
    decode vectorBuild noConds { fmt := .dec, key := 0b01100010000 } = .ok (.payMore 0x10) ∧
    decode vectorBuild { noConds with lcLast := true } { fmt := .dec, key := 0b01100100000 } = .ok (.payLast 0x20) ∧
    decode vectorBuild { noConds with csMatch := true } { fmt := .dec, key := 0b10000110010 } = .ok (.chkOk 0x32) ∧
    decode vectorBuild noConds { fmt := .dec, key := 0b10000110010 } = .ok (.chkBad 0x32) := ⟨rfl, rfl, rfl, rfl⟩

/-- The unused state codes (R96, R113) and a key with a bit too many. -/
theorem test_decode_rejects :
    decode vectorBuild noConds { fmt := .dec, key := 0b10100000000 } = .error .reservedState ∧
    decode vectorBuild noConds { fmt := .dec, key := 0b11111111111 } = .error .reservedState ∧
    decode vectorBuild noConds { fmt := .dec, key := 0b100000000000 } = .error .keyTooWide := ⟨rfl, rfl, rfl⟩

/-- Formats STL and RST (R101, R105): one key each selects nothing. -/
theorem test_decode_stl_rst :
    decode vectorBuild noConds { fmt := .stl, key := 0b1 } = .ok .staleClr ∧
    decode vectorBuild noConds { fmt := .stl, key := 0b0 } = .error .selectsNothing ∧
    decode vectorBuild noConds { fmt := .rst, key := 0b0 } = .ok .reset ∧
    decode vectorBuild noConds { fmt := .rst, key := 0b1 } = .error .selectsNothing := ⟨rfl, rfl, rfl, rfl⟩

/-- Formats CS and LC (R102, R103). -/
theorem test_decode_cs_lc :
    decode vectorBuild noConds { fmt := .cs, key := 0b00, byte := 5 } = .ok .csHold ∧
    decode vectorBuild noConds { fmt := .cs, key := 0b01, byte := 5 } = .ok .csClear ∧
    decode vectorBuild noConds { fmt := .cs, key := 0b10, byte := 5 } = .ok (.csSeed 5) ∧
    decode vectorBuild noConds { fmt := .cs, key := 0b11, byte := 5 } = .ok (.csAdd 5) ∧
    decode vectorBuild noConds { fmt := .lc, key := 0b00, byte := 5 } = .ok .lcHold ∧
    decode vectorBuild noConds { fmt := .lc, key := 0b01, byte := 5 } = .ok .lcClear ∧
    decode vectorBuild noConds { fmt := .lc, key := 0b10, byte := 5 } = .ok (.lcLoad 5) ∧
    decode vectorBuild noConds { fmt := .lc, key := 0b11, byte := 5 } = .ok .lcInc :=
  ⟨rfl, rfl, rfl, rfl, rfl, rfl, rfl, rfl⟩

/-- Formats WD and AUTO (R104, R106). -/
theorem test_decode_wd_auto :
    decode vectorBuild noConds { fmt := .wd, key := 0b1, time := 1141 } = .ok (.wdStamp 1141) ∧
    decode vectorBuild noConds { fmt := .wd, key := 0b0, time := 1141 } = .ok .wdHold ∧
    decode vectorBuild noConds { fmt := .auto .head, key := 0, places := 3 } = .ok (.syncHead 3) ∧
    decode vectorBuild noConds { fmt := .auto .tail, key := 0, places := 2 } = .ok (.syncTail 2) := ⟨rfl, rfl, rfl, rfl⟩

/-- Bare table words in the order of log 14, and the step that runs them from reset (log 15). -/
theorem test_table_words :
    decodeTableWord 16 0x13C = some (.push 0x3C) ∧ decodeTableWord 16 0x0AA = some .ws1Hit ∧
    decodeTableWord 16 0x205 = some (.lenOk 0x05) ∧ decodeTableWord 8 0x7 = some .halted ∧
    decodeTableWord 8 0x2 = some (.csSeed 0) ∧ decodeTableWord 0 0 = some (.syncHead 0) := by decide

/-- From the reset of the free build: no value of an OPEN parameter is used (R6). -/
theorem test_reset_withFetchWord_push :
    (after (step (State.reset.withFetchWord 16 0x13C))).map (·.fifoMem) = some [(0, 0x3C)] := by decide
theorem test_reset_withFetchWord_pop : (after (step (State.reset.withFetchWord 8 0x1))).map (·.pops) = some [none] := by decide
theorem test_reset_withFetchWord_syncTail : (after (step (State.reset.withFetchWord 0 0))).isSome = true := by decide

theorem test_withFetchWord_push : (after (step (vectorReset.withFetchWord 16 0x13C))).map (·.fifoMem) = some [(0, 0x3C)] := by
  decide
theorem test_withFetchWord_chkOk :
    (after (step (vectorReset.withFetchWord 16 0x400))).map (·.framesOut) = some [⟨0, []⟩] := by decide

/-! ## bounded_async_fifo -/

/-- V50. -/
theorem test_push_wraps_head :
    (after (exec (.push 0x44) (fifoAt 3 2 3 2 []))).map (fun s => (indices s, s.fifoMem)) = some ((0, 2, 3, 2), [(3, 0x44)]) := by
  decide
/-- V46. -/
theorem test_push_full_is_rejected :
    (after (exec (.push 0x44) (fifoAt 3 0 0 0 []))).map (fun s => (indices s, s.fifoMem, s.submissions))
      = some ((3, 0, 0, 0), [], [⟨0x44, .rejectedChannelFull⟩]) := by decide
/-- R182. -/
theorem test_wnop : (after (exec .wnop (fifoAt 1 0 0 0 []))).map indices = some (1, 0, 0, 0) := by decide
/-- R183's example. -/
theorem test_pop_returns_the_oldest :
    (after (exec .pop (fifoAt 3 0 3 0 [(0, 0x11), (1, 0x22)]))).map (fun s => (indices s, s.pops))
      = some ((3, 1, 3, 0), [some 0x11]) := by decide
/-- V48. -/
theorem test_pop_lagging_view_is_empty :
    (after (exec .pop (fifoAt 3 0 0 0 [(0, 0x11)]))).map (fun s => (indices s, s.pops)) = some ((3, 0, 0, 0), [none]) := by
  decide
/-- R184. -/
theorem test_rnop : (after (exec .rnop (fifoAt 3 1 3 0 []))).map indices = some (3, 1, 3, 0) := by decide
/-- V49. -/
theorem test_syncHead_part_of_the_way :
    (after (exec (.syncHead 1) (fifoAt 3 0 0 0 []))).map indices = some (3, 0, 1, 0) := by decide
/-- P3 step 14: the view wraps. -/
theorem test_syncHead_wraps : (after (exec (.syncHead 2) (fifoAt 1 2 3 2 []))).map indices = some (1, 2, 1, 2) := by decide
/-- R186's example. -/
theorem test_syncTail : (after (exec (.syncTail 2) (fifoAt 3 2 3 0 []))).map indices = some (3, 2, 3, 2) := by decide

/-! ## The datapath: V1 to V6, V9, V10 -/

theorem test_csSeed : (after (exec (.csSeed 0x05) (decoderAt .readLength 0 0 0x77 [] 0))).map (·.csum) = some 0x05 := by decide
theorem test_csAdd_wraps : (after (exec (.csAdd 0x01) (decoderAt .readPayload 2 0 0xFF [] 0))).map (·.csum) = some 0x00 := by
  decide
theorem test_csAdd_drops_carry :
    (after (exec (.csAdd 0xAA) (decoderAt .readPayload 2 0 0x8F [] 0))).map (·.csum) = some 0x39 := by decide
theorem test_csClear : (after (exec .csClear (decoderAt .readPayload 2 0 0x8E [] 0))).map (·.csum) = some 0x00 := by decide
theorem test_csHold : (after (exec .csHold (decoderAt .readPayload 2 0 0x14 [] 0))).map (·.csum) = some 0x14 := by decide
theorem test_lcLoad_max_payload :
    (after (exec (.lcLoad 0x20) (decoderAt .readLength 9 9 0 [] 0))).map (fun s => (s.len, s.widx)) = some (32, 0) := by decide
theorem test_lcInc_last :
    (after (exec .lcInc (decoderAt .readPayload 5 4 0 [] 0))).map (fun s => (s.len, s.widx)) = some (5, 5) := by decide
theorem test_lcClear :
    (after (exec .lcClear (decoderAt .readPayload 5 5 0 [] 0))).map (fun s => (s.len, s.widx)) = some (0, 0) := by decide
theorem test_lcHold :
    (after (exec .lcHold (decoderAt .readPayload 5 2 0 [] 0))).map (fun s => (s.len, s.widx)) = some (5, 2) := by decide
/-- R143's example; the flag is that of before the stamp. -/
theorem test_wdStamp :
    stale (decoderAt .waitSync1 0 0 0 [] 1040) 1141 = true ∧
    (after (exec (.wdStamp 1141) (decoderAt .waitSync1 0 0 0 [] 1040))).map (·.lastTs) = some 1141 := by decide
theorem test_wdHold : (after (exec .wdHold (decoderAt .waitSync1 0 0 0 [] 1040))).map (·.lastTs) = some 1040 := by decide
/-- V29 to V32 and V39. -/
theorem test_stale_boundaries :
    stale (decoderAt .waitSync1 0 0 0 [] 0) 100 = false ∧ stale (decoderAt .waitSync1 0 0 0 [] 0) 101 = true ∧
    stale (decoderAt .waitSync1 0 0 0 [] 0xFFF0) 0x0010 = false ∧ stale (decoderAt .waitSync1 0 0 0 [] 0xFFF0) 0x0055 = true ∧
    stale (decoderAt .waitSync1 0 0 0 [] 500) 499 = true := by decide

/-! ## deserializer_fsm: the examples of R152 to R164 -/

theorem test_staleClr_then_hit :
    (after (feed 0xAA 1141 (decoderAt .readPayload 4 2 0x8F [(0, 0xDE), (1, 0xAD)] 1040))).map (fun s => (decoder s, s.lastTs))
      = some ((.waitSync2, 0, 0, 0x00), 1141) := by decide
theorem test_staleClr :
    (after (exec .staleClr (decoderAt .readPayload 4 2 0x8F [(0, 0xDE)] 1040))).map (fun s => (decoder s, s.scratch, s.lastTs))
      = some ((.waitSync1, 0, 0, 0x00), [(0, 0xDE)], 1040) := by decide
theorem test_ws1Hit : (after (exec .ws1Hit (decoderAt .waitSync1 0 0 0 [] 0))).map decoder = some (.waitSync2, 0, 0, 0x00) := by
  decide
theorem test_ws1Miss : (after (exec (.ws1Miss 0x13) (decoderAt .waitSync1 0 0 0 [] 0))).map decoder = some (.waitSync1, 0, 0, 0x00) := by
  decide
theorem test_ws2Hit : (after (exec .ws2Hit (decoderAt .waitSync2 0 0 0 [] 0))).map decoder = some (.readLength, 0, 0, 0x00) := by
  decide
/-- V13: the second AA is dropped, not retried. -/
theorem test_ws2Miss_of_AA : (after (feed 0xAA 0 (decoderAt .waitSync2 0 0 0 [] 0))).map decoder = some (.waitSync1, 0, 0, 0x00) := by
  decide
/-- V10b, V19. -/
theorem test_lenOver_smallest : (after (feed 0x21 0 (decoderAt .readLength 0 0 0 [] 0))).map decoder = some (.waitSync1, 0, 0, 0x00) := by
  decide
theorem test_lenZero : (after (exec .lenZero (decoderAt .readLength 0 0 0 [] 0))).map decoder = some (.readChecksum, 0, 0, 0x00) := by
  decide
theorem test_lenOk : (after (exec (.lenOk 0x05) (decoderAt .readLength 0 0 0 [] 0))).map decoder = some (.readPayload, 5, 0, 0x05) := by
  decide
/-- V10a, V16: the largest legal length. -/
theorem test_lenOk_max_payload :
    (after (feed 0x20 0 (decoderAt .readLength 0 0 0 [] 0))).map decoder = some (.readPayload, 32, 0, 0x20) := by decide
theorem test_payMore :
    (after (exec (.payMore 0x01) (decoderAt .readPayload 5 0 0x05 [] 0))).map (fun s => (decoder s, s.scratch))
      = some ((.readPayload, 5, 1, 0x06), [(0, 0x01)]) := by decide
theorem test_payLast :
    (after (exec (.payLast 0x05) (decoderAt .readPayload 5 4 0x0F [] 0))).map (fun s => (decoder s, s.scratch))
      = some ((.readChecksum, 5, 5, 0x14), [(4, 0x05)]) := by decide
/-- T1's last row, and R206's packing of it. -/
theorem test_chkOk :
    (after (feed 0x14 0 (decoderAt .readChecksum 5 5 0x14 [(0, 1), (1, 2), (2, 3), (3, 4), (4, 5)] 0))).map
      (fun s => (decoder s, s.framesOut, s.frameValid, payloadBits s 5))
      = some ((.waitSync1, 0, 0, 0x00), [⟨5, [1, 2, 3, 4, 5]⟩], true, some 0x0504030201) := by decide
/-- V59: what `scratch` holds above the length is copied and means nothing. -/
theorem test_chkOk_packing :
    (after (exec (.chkOk 0) (decoderAt .readChecksum 3 3 0 [(0, 0xDE), (1, 0xAD), (2, 0xBE), (3, 0x99)] 0))).map
      (fun s => (payloadBits s 3, frameOut s)) = some (some 0xBEADDE, some ⟨3, [0xDE, 0xAD, 0xBE]⟩) := by decide
/-- T2's last row. -/
theorem test_chkBad :
    (after (feed 0x00 0 (decoderAt .readChecksum 5 5 0x14 [(0, 1)] 0))).map (fun s => (decoder s, s.framesOut, s.scratch))
      = some ((.waitSync1, 0, 0, 0x00), [], [(0, 1)]) := by decide

/-! ## frame_synchronizer: states of P4, and the top level's operations -/

/-- P4 after step 15: the checksum byte of `AA 55 01 2A 2B` is visible, the decoder waits for it. -/
def beforeChecksum : State :=
  { vectorReset with
    fifoMem := [(0, 0xAA), (1, 0x55), (2, 0x01), (3, 0x2A), (4, 0x2B)]
    head := 5
    tail := 4
    headSeen := 5
    tailSeen := 3
    st := .readChecksum
    len := 1
    widx := 1
    csum := 0x2B
    scratch := [(0, 0x2A)]
    lastTs := 14
    submissions := [⟨0xAA, .accepted⟩, ⟨0x55, .accepted⟩, ⟨0x01, .accepted⟩, ⟨0x2A, .accepted⟩, ⟨0x2B, .accepted⟩]
    pops := [some 0xAA, some 0x55, some 0x01, some 0x2A] }

/-- P4 after step 16: the frame is presented. -/
def afterChecksum : State :=
  { beforeChecksum with
    tail := 5
    st := .waitSync1
    len := 0
    widx := 0
    csum := 0
    lastTs := 15
    frameValid := true
    frameLen := 1
    framePayload := [(0, 0x2A)]
    framesOut := [⟨1, [0x2A]⟩]
    pops := [some 0xAA, some 0x55, some 0x01, some 0x2A, some 0x2B] }

/-- P4's attempt one byte earlier: the only payload byte is visible. -/
def beforePayload : State :=
  { beforeChecksum with
    tail := 3
    st := .readPayload
    widx := 0
    csum := 0x01
    scratch := []
    lastTs := 13
    pops := [some 0xAA, some 0x55, some 0x01] }

/-- P4 after step 19, with one byte submitted after the stop. -/
def haltedState : State :=
  { afterChecksum with
    halted := true
    frameValid := false
    head := 6
    fifoMem := [(0, 0xAA), (1, 0x55), (2, 0x01), (3, 0x2A), (4, 0x2B), (5, 0x99)]
    submissions := beforeChecksum.submissions ++ [⟨0x99, .accepted⟩] }

/-- P4 step 16. -/
theorem test_consume_checksum : after (exec (.consume 15) beforeChecksum) = some afterChecksum := by decide
/-- V55. -/
theorem test_consume_first_byte :
    (after (exec (.consume 7) (fifoAt 1 0 1 0 [(0, 0xAA)]))).map (fun s => (indices s, s.st, s.lastTs))
      = some ((1, 1, 1, 0), .waitSync2, 7) := by decide
/-- P4 step 17. -/
theorem test_cidle : after (exec .cidle afterChecksum) = some { afterChecksum with frameValid := false } := by decide
/-- P4 step 18, V62. -/
theorem test_stop : after (exec .stop afterChecksum) = some { afterChecksum with halted := true, frameValid := false } := by decide
/-- P4 step 22. -/
theorem test_halted_pops_nothing :
    after (exec .halted { haltedState with headSeen := 6 }) = some { haltedState with headSeen := 6 } := by decide
/-- V60. -/
theorem test_reset :
    (after (exec .reset haltedState)).map (fun s => (indices s, s.st, s.halted, s.framesOut))
      = some ((0, 0, 0, 0), .waitSync1, false, []) := by decide
/-- P4 steps 17 to 20 as one step each by the pins: `stop_req` wins over an empty channel, `halted` over `stop_req`. -/
theorem test_step_precedence :
    (after (step { afterChecksum with agenda := [.rd true 17] })).map (·.halted) = some true ∧
    (after (step { haltedState with agenda := [.rd true 18] })).map (·.tail) = some 5 := by decide
/-- An access outside an array, and a read of a byte without a value (93 U4). -/
theorem test_faults :
    (match exec .pop { fifoAt 1 0 1 0 [] with tail := 9 } with | .fault e => some e | _ => none) = some (.noSuchByte .fifoMem) ∧
    (match exec .pop (fifoAt 1 0 1 0 []) with | .fault e => some e | _ => none) = some (.unwrittenByte .fifoMem) := by decide

/-! ## Witnesses: for each obligation with hypotheses, a state and operands that meet them all; a clause with hypotheses of its own
has its own, at a boundary value of its range -/

/-- P4 after step 4: two bytes visible, the decoder in its first state. -/
def beforePreamble : State :=
  { vectorReset with
    fifoMem := [(0, 0xAA), (1, 0x55)]
    head := 2
    headSeen := 2
    submissions := [⟨0xAA, .accepted⟩, ⟨0x55, .accepted⟩] }

/-- V46's true full and V53's false full, with D = 4. -/
def trueFull : State := fifoAt 3 0 0 0 [(0, 0x11), (1, 0x22), (2, 0x33)]

/-- P3 after step 8: occupancy 1, the producer's view of the tail is old. -/
def falseFull : State :=
  { fifoAt 3 2 3 0 [(0, 0x11), (1, 0x22), (2, 0x33)] with
    submissions := [⟨0x11, .accepted⟩, ⟨0x22, .accepted⟩, ⟨0x33, .accepted⟩]
    pops := [some 0x11, some 0x22] }

/-- MAX_PAYLOAD at the ends of the ranges of the two length clauses. -/
theorem witness_WrittenOutKeysDecodeToTheirOperations :
    vectorBuild.maxPayload = 0x21 - 1 ∧ ({ vectorBuild with maxPayload := 0x05 } : Params).ok := by decide

theorem witness_DecodeOfEncodeIsTheOperation :
    (wellFormed vectorBuild (.consume 65535) = true ∧ noConds.admits (.consume 65535) = true) ∧
    (wellFormed vectorBuild (.syncHead 7) = true ∧ noConds.admits (.syncHead 7) = true) ∧
    (wellFormed vectorBuild (.lenOver 0x21) = true ∧ noConds.admits (.lenOver 0x21) = true) ∧
    (wellFormed vectorBuild (.lenOk 0x20) = true ∧ noConds.admits (.lenOk 0x20) = true) ∧
    (wellFormed vectorBuild (.payMore 0xFF) = true ∧ noConds.admits (.payMore 0xFF) = true) ∧
    (wellFormed vectorBuild (.payLast 0xFF) = true ∧ Conds.admits { noConds with lcLast := true } (.payLast 0xFF) = true) ∧
    (wellFormed vectorBuild (.chkOk 0x00) = true ∧ Conds.admits { noConds with csMatch := true } (.chkOk 0x00) = true) := by
  decide

theorem witness_DecodedKeyLiesInItsTableRow :
    decode vectorBuild noConds { fmt := .con, key := 0, time := 65535, places := 7 } = .ok (.consume 65535) ∧
    65535 < 2 ^ vectorBuild.tsW ∧ 7 < vectorBuild.fifoDepth := ⟨rfl, by decide, by decide⟩

theorem witness_DispatchSelectsTheOneRowThatHolds :
    DecoderInv beforePreamble ∧ DecoderInv (decoderAt .waitSync2 0 0 0 [] 0) ∧ DecoderInv (decoderAt .readLength 0 0 0 [] 0) ∧
    DecoderInv beforePayload ∧ DecoderInv beforeChecksum :=
  ⟨by decide, by decide, by decide, by decide, by decide⟩

theorem witness_StepRunsTheDecodedOperation_operation :
    decode haltedState.cfg (condsOf haltedState (fedByte (.rd true 18))) (driveOf haltedState (.rd true 18)) = .ok .halted := rfl
theorem witness_StepRunsTheDecodedOperation_nothing :
    decode vectorReset.cfg (condsOf vectorReset (fedByte (.stl 100))) (driveOf vectorReset (.stl 100)) = .error .selectsNothing :=
  rfl
theorem witness_StepRunsTheDecodedOperation_no_move : vectorReset.agenda = [] := rfl

theorem witness_EachClockEdgeSelectsByPrecedence :
    ({ haltedState with agenda := [.rst false] } : State).agenda = [.rst false] ∧
    ({ haltedState with agenda := [.rd true 18] } : State).agenda = [.rd true 18] ∧
    ({ haltedState with agenda := [.wr true 1] } : State).agenda = [.wr true 1] := by decide

theorem witness_PushStoresAtHeadOrIsRejectedWhenFull_full : (trueFull.head + 1) % trueFull.cfg.fifoDepth = trueFull.tailSeen := by
  decide
theorem witness_PushStoresAtHeadOrIsRejectedWhenFull_free :
    ((fifoAt 3 2 3 2 []).head + 1) % (fifoAt 3 2 3 2 []).cfg.fifoDepth ≠ (fifoAt 3 2 3 2 []).tailSeen ∧
    (fifoAt 3 2 3 2 []).head < (fifoAt 3 2 3 2 []).cfg.fifoDepth := by decide

theorem witness_PopReturnsTheByteAtTailOrNone_empty : trueFull.tail = trueFull.headSeen := by decide
theorem witness_PopReturnsTheByteAtTailOrNone_visible :
    (fifoAt 2 3 0 3 [(3, 0x44)]).tail ≠ (fifoAt 2 3 0 3 [(3, 0x44)]).headSeen ∧
    (fifoAt 2 3 0 3 [(3, 0x44)]).tail < (fifoAt 2 3 0 3 [(3, 0x44)]).cfg.fifoDepth ∧
    memRead (fifoAt 2 3 0 3 [(3, 0x44)]).fifoMem (fifoAt 2 3 0 3 [(3, 0x44)]).tail = some 0x44 := by decide

theorem witness_SynchroniserMovesItsViewForward :
    0 ≤ (trueFull.head + trueFull.cfg.fifoDepth - trueFull.headSeen) % trueFull.cfg.fifoDepth ∧
    3 ≤ (trueFull.head + trueFull.cfg.fifoDepth - trueFull.headSeen) % trueFull.cfg.fifoDepth ∧
    (trueFull.head + trueFull.cfg.fifoDepth - trueFull.headSeen) % trueFull.cfg.fifoDepth < 4 ∧
    2 ≤ (falseFull.tail + falseFull.cfg.fifoDepth - falseFull.tailSeen) % falseFull.cfg.fifoDepth ∧
    (falseFull.tail + falseFull.cfg.fifoDepth - falseFull.tailSeen) % falseFull.cfg.fifoDepth < 3 := by decide

theorem witness_FairRunsLetViewsCatchUp_step :
    trueFull.head < trueFull.cfg.fifoDepth ∧ trueFull.tail < trueFull.cfg.fifoDepth ∧
    trueFull.headSeen < trueFull.cfg.fifoDepth ∧ trueFull.tailSeen < trueFull.cfg.fifoDepth := by decide

/-- A run of an idle block with two bytes pushed: the view of `head` lags at first, then one step of the whole distance comes. -/
def catchUpMoves : Nat → Event
  | 0 => .sync .head 2
  | _ + 1 => .wr false 0

/-- The states of that run. -/
def catchUpStates : Nat → State
  | 0 => { beforePreamble with headSeen := 0 }
  | _ + 1 => beforePreamble

theorem witness_FairRunsLetViewsCatchUp_run :
    IsRun catchUpMoves catchUpStates ∧ Fair catchUpMoves catchUpStates ∧ 2 ≤ (catchUpStates 0).cfg.fifoDepth ∧
    RingInv (catchUpStates 0) ∧ (catchUpStates 0).headSeen ≠ (catchUpStates 0).head ∧
    (∀ m, 0 ≤ m → (catchUpStates m).head = (catchUpStates 0).head) ∧
    ∀ m, 0 ≤ m → (catchUpStates m).tail = (catchUpStates 0).tail := by
  have still : step (beforePreamble.withAgenda [.wr false 0]) = .next beforePreamble := eq_next_of_after (by decide)
  have moved : step ((catchUpStates 0).withAgenda [.sync .head 2]) = .next beforePreamble := eq_next_of_after (by decide)
  have caught : ∀ v, viewDistance beforePreamble v = 0 := by intro v; cases v <;> decide
  refine ⟨?_, ⟨?_, ?_⟩, by decide, by decide, by decide, ?_, ?_⟩
  · intro n
    cases n
    · exact moved
    · exact still
  · intro n; exact ⟨n + 1, Nat.le_succ n, .inr (.inl (caught .head))⟩
  · intro n; exact ⟨n + 1, Nat.le_succ n, .inr (.inl (caught .tail))⟩
  · intro m _; cases m <;> rfl
  · intro m _; cases m <;> rfl

theorem witness_EveryOperationKeepsTheRingInvariant :
    2 ≤ trueFull.cfg.fifoDepth ∧ RingInv trueFull ∧ (after (exec (.syncHead 3) trueFull)).isSome = true := by decide

theorem witness_FlagsErrOnOneSideOnly :
    (falseFull.cfg.ok ∧ RingInv falseFull ∧ FifoInv falseFull ∧ rdEmpty falseFull = false) ∧
    (beforePreamble.cfg.ok ∧ RingInv beforePreamble ∧ FifoInv beforePreamble ∧ wrFull beforePreamble = false) ∧
    (beforePreamble.headSeen = beforePreamble.head ∧ beforePreamble.tailSeen = beforePreamble.tail) := by decide

theorem witness_FlagsFallOnlyBySynchroniserSteps :
    (∃ t, exec (.syncHead 1) trueFull = .next t ∧ rdEmpty trueFull = true ∧ rdEmpty t = false) ∧
    (∃ t, exec (.syncTail 1) falseFull = .next t ∧ wrFull falseFull = true ∧ wrFull t = false) ∧
    (∃ t, exec .reset trueFull = .next t ∧ wrFull trueFull = true ∧ wrFull t = false) :=
  ⟨⟨_, rfl, rfl, rfl⟩, ⟨_, rfl, rfl, rfl⟩, ⟨_, rfl, rfl, rfl⟩⟩

theorem witness_PushAndPopCommute : falseFull.cfg.ok ∧ RingInv falseFull ∧ FifoInv falseFull ∧ rdEmpty falseFull = false := by decide

theorem witness_OnlyTheUsableSlotsAccept :
    (fifoAt 3 3 3 3 []).cfg.ok ∧ RingInv (fifoAt 3 3 3 3 []) ∧ (fifoAt 3 3 3 3 []).head = (fifoAt 3 3 3 3 []).tail ∧
    (fifoAt 3 3 3 3 []).tailSeen = (fifoAt 3 3 3 3 []).tail := by decide

theorem witness_PushedBytesArePoppedInOrder :
    ((fifoAt 3 3 3 3 []).cfg.ok ∧ RingInv (fifoAt 3 3 3 3 []) ∧ FifoInv (fifoAt 3 3 3 3 [])) ∧
    (fifoAt 3 3 3 3 []).head = (fifoAt 3 3 3 3 []).tail ∧ (fifoAt 3 3 3 3 []).tailSeen = (fifoAt 3 3 3 3 []).tail ∧
    ([0x11, 0x22, 0x33] : List Byte).length ≤ (fifoAt 3 3 3 3 []).cfg.fifoDepth - 1 := by decide

theorem witness_ChecksumIsTheWideSumModulo256InAnyOrder : ([0x01, 0xFF] : List Byte).Perm [0xFF, 0x01] := by decide

theorem witness_LengthCommandsHoldClearLoadIncrement :
    (0x20 : Byte).toNat ≤ beforePayload.cfg.maxPayload ∧ beforePayload.widx < beforePayload.len ∧
    beforePayload.len ≤ beforePayload.cfg.maxPayload := by decide

theorem witness_LengthIncrementCountsWithinItsRegister :
    (decoderAt .readPayload 63 62 0 [] 0).widx + 1 < 2 ^ vectorReset.cfg.lenW ∧
    2 ^ vectorReset.cfg.lenW ≤ (decoderAt .readPayload 63 63 0 [] 0).widx + 1 := by decide

theorem witness_DerivedWidthsHoldTheirValues : build4.ok ∧ build4.maxPayload < 2 ^ 6 := by decide

theorem witness_WatchdogCommandsStampAndHold : 65535 < 2 ^ vectorReset.cfg.tsW := by decide

theorem witness_StaleIsTheModularGapAboveTheTimeout :
    (decoderAt .waitSync1 0 0 0 [] 0xFFF0).lastTs < 2 ^ (decoderAt .waitSync1 0 0 0 [] 0xFFF0).cfg.tsW ∧
    0x0055 < 2 ^ (decoderAt .waitSync1 0 0 0 [] 0xFFF0).cfg.tsW := by decide

/-- V36's build, in which nothing is ever stale. -/
def neverStale : State := State.resetWith { vectorBuild with timeout := 65535 } []

theorem witness_StalenessLawForTrueGaps :
    (vectorReset.cfg.ok ∧ vectorReset.lastTs < 2 ^ vectorReset.cfg.tsW ∧ 101 < 2 ^ vectorReset.cfg.tsW ∧ 0 < 1) ∧
    (neverStale.cfg.ok ∧ neverStale.lastTs < 2 ^ neverStale.cfg.tsW ∧ neverStale.cfg.timeout = 2 ^ neverStale.cfg.tsW - 1) := by
  decide

theorem witness_PreambleTransitionsMoveOnlyTheParseState :
    vectorReset.st = .waitSync1 ∧ (decoderAt .waitSync2 0 0 0 [] 0).st = .waitSync2 := by decide

theorem witness_LengthByteTransitionsClearOrLoad :
    (0x20 : Byte).toNat ≤ vectorReset.cfg.maxPayload ∧ (decoderAt .readLength 0 0 0 [] 0).st = .readLength := by decide

theorem witness_PayloadTransitionsStoreSumAndCount :
    (decoderAt .readPayload 32 31 0x01 [] 0).widx < (decoderAt .readPayload 32 31 0x01 [] 0).cfg.maxPayload ∧
    (decoderAt .readPayload 32 31 0x01 [] 0).st = .readPayload := by decide

theorem witness_ChecksumTransitionsEmitOrDropTheFrame :
    beforeChecksum.len ≤ beforeChecksum.cfg.maxPayload ∧ ([0x2A] : List Byte).length = beforeChecksum.len ∧
    (∀ i (h : i < ([0x2A] : List Byte).length), memRead beforeChecksum.scratch i = some ([0x2A] : List Byte)[i]) ∧
    beforeChecksum.st = .readChecksum := by decide

theorem witness_EveryDecoderConditionIsOnlyTheClear :
    (DecoderInv vectorReset ∧ vectorReset.st = .waitSync1) ∧
    (DecoderInv (decoderAt .waitSync2 0 0 0 [] 0) ∧ (decoderAt .waitSync2 0 0 0 [] 0).st = .waitSync2) := by decide

theorem witness_StaleByteIsJudgedFromAClearedDecoder : stale beforeChecksum 115 = true := by decide

theorem witness_FirstFeedDoesNotDependOnLastTs :
    vectorReset.st = .waitSync1 ∧ vectorReset.len = 0 ∧ vectorReset.widx = 0 ∧ vectorReset.csum = 0x00#8 := by decide

/-- On CHK_OK and on a byte that is stale: another state with the same decoder state. -/
theorem witness_FeedTouchesNothingOfTheFifo :
    (haltedState.cfg = afterChecksum.cfg ∧ haltedState.st = afterChecksum.st ∧ haltedState.len = afterChecksum.len ∧
      haltedState.widx = afterChecksum.widx ∧ haltedState.csum = afterChecksum.csum ∧
      haltedState.scratch = afterChecksum.scratch ∧ haltedState.lastTs = afterChecksum.lastTs) ∧
    stale afterChecksum 116 = true ∧
    (stale beforeChecksum 15 = false ∧ beforeChecksum.st = .readChecksum ∧ (0x2B : Byte) = beforeChecksum.csum) := by decide

/-- `AA 55 02 10 20 32` with a gap of TIMEOUT and a wrap of the time. -/
def frameTimes : List Nat := [65500, 64, 64, 65, 100, 200]

theorem witness_noStaleGap : noStaleGap vectorBuild frameTimes := by simp [noStaleGap, frameTimes, timeOperand, vectorBuild, Params.openBuild]

theorem witness_ValidFrameIsDecodedExactlyOnce :
    vectorReset.cfg.ok ∧ ([0x10, 0x20] : List Byte).length ≤ vectorReset.cfg.maxPayload ∧
    frameTimes.length = ([0x10, 0x20] : List Byte).length + 4 ∧ noStaleGap vectorReset.cfg frameTimes ∧
    vectorReset.st = .waitSync1 := ⟨by decide, by decide, by decide, witness_noStaleGap, rfl⟩
theorem witness_ValidFrameIsDecodedExactlyOnce_after_a_gap :
    beforeChecksum.cfg.ok ∧ ([0x10, 0x20] : List Byte).length ≤ beforeChecksum.cfg.maxPayload ∧
    frameTimes.length = ([0x10, 0x20] : List Byte).length + 4 ∧ noStaleGap beforeChecksum.cfg frameTimes ∧
    ∃ t l, frameTimes = t :: l ∧ stale beforeChecksum t = true :=
  ⟨by decide, by decide, by decide, witness_noStaleGap, 65500, _, rfl, by decide⟩

theorem witness_CorruptedPayloadOrChecksumEmitsNothing :
    vectorReset.cfg.ok ∧ ([0x10, 0x20] : List Byte).length ≤ vectorReset.cfg.maxPayload ∧
    frameTimes.length = ([0x10, 0x20] : List Byte).length + 4 ∧ noStaleGap vectorReset.cfg frameTimes ∧
    vectorReset.st = .waitSync1 ∧ (0x33 : Byte) ≠ checksumOf ([0x10, 0x20] : List Byte).length [0x10, 0x20] ∧
    ([0x10, 0x20] : List Byte)[1]? ≠ some 0x21 ∧ 1 < ([0x10, 0x20] : List Byte).length :=
  ⟨by decide, by decide, by decide, witness_noStaleGap, rfl, by decide, by decide, by decide⟩

theorem witness_ConsumePopsAndFeedsOneByte :
    (BlockInv beforeChecksum ∧ rdEmpty beforeChecksum = false) ∧ (BlockInv beforePayload ∧ rdEmpty beforePayload = false) ∧
    (BlockInv beforePreamble ∧ rdEmpty beforePreamble = false) := ⟨by decide, by decide, by decide⟩

theorem witness_ConsumeOnEmptyFeedsNothing : rdEmpty vectorReset = true := by decide

theorem witness_IdleStopAndHaltedEffects :
    vectorReset.halted = false ∧ rdEmpty vectorReset = true ∧ haltedState.halted = true := by decide

theorem witness_SubmittedFrameIsEmittedEndToEnd :
    vectorBuild.ok ∧ ([0x10, 0x20] : List Byte).length ≤ vectorBuild.maxPayload ∧
    ([0x10, 0x20] : List Byte).length + 4 ≤ vectorBuild.fifoDepth - 1 ∧
    frameTimes.length = ([0x10, 0x20] : List Byte).length + 4 ∧ noStaleGap vectorBuild frameTimes :=
  ⟨by decide, by decide, by decide, by decide, witness_noStaleGap⟩

theorem witness_AfterResetTheFirstByteIsAcceptedAtSlotZero : ({ vectorBuild with fifoDepth := 2 } : Params).ok := by decide

theorem witness_FrameValidFollowsExactlyTheChecksumHits_pulse :
    ∃ u, step { beforeChecksum with agenda := [.rd false 15] } = .next u ∧ u.frameValid = true := ⟨_, rfl, rfl⟩
theorem witness_FrameValidFollowsExactlyTheChecksumHits_others :
    (∃ u, step { afterChecksum with agenda := [.wr true 1] } = .next u) ∧
    (∃ u, step { afterChecksum with agenda := [.sync .tail 2] } = .next u) := ⟨⟨_, rfl⟩, ⟨_, rfl⟩⟩

theorem witness_HaltedEndsConsumptionUntilReset :
    Event.wired (.rd false 19) = true ∧ Event.rd false 19 ≠ .rst false ∧ haltedState.halted = true ∧
    (after (step { haltedState with agenda := [.rd false 19] })).isSome = true := by decide

theorem witness_DecoderChangesOnlyWhenAByteIsConsumed :
    ∃ u, step { beforeChecksum with agenda := [.rd false 15] } = .next u ∧ Event.wired (.rd false 15) = true ∧
      u.st ≠ beforeChecksum.st := ⟨_, rfl, rfl, by decide⟩

theorem witness_EachRegisterHasItsOneWriter :
    (∃ t, exec (.push 1) vectorReset = .next t ∧ t.fifoMem ≠ vectorReset.fifoMem) ∧
    (∃ t, exec .pop beforeChecksum = .next t ∧ t.pops ≠ beforeChecksum.pops) ∧
    (∃ t, exec (.syncHead 3) trueFull = .next t ∧ t.headSeen ≠ trueFull.headSeen) ∧
    (∃ t, exec (.syncTail 2) falseFull = .next t ∧ t.tailSeen ≠ falseFull.tailSeen) ∧
    (∃ t, exec .stop vectorReset = .next t ∧ t.halted ≠ vectorReset.halted) ∧
    (∃ t, exec .cidle afterChecksum = .next t ∧ t.frameValid ≠ afterChecksum.frameValid) ∧
    (∃ t, exec (.chkOk 0x2B) beforeChecksum = .next t ∧ t.framesOut ≠ beforeChecksum.framesOut ∧ t.st ≠ beforeChecksum.st) ∧
    (∃ t, exec (.payLast 0x2A) beforePayload = .next t ∧ t.scratch ≠ beforePayload.scratch ∧ t.widx ≠ beforePayload.widx) ∧
    (∃ t, exec (.lcLoad 5) vectorReset = .next t ∧ t.len ≠ vectorReset.len) ∧
    (∃ t, exec (.csAdd 1) vectorReset = .next t ∧ t.csum ≠ vectorReset.csum) ∧
    (∃ t, exec (.consume 15) beforeChecksum = .next t ∧ t.tail ≠ beforeChecksum.tail ∧ t.lastTs ≠ beforeChecksum.lastTs) :=
  ⟨⟨_, rfl, by decide⟩, ⟨_, rfl, by decide⟩, ⟨_, rfl, by decide⟩, ⟨_, rfl, by decide⟩, ⟨_, rfl, by decide⟩, ⟨_, rfl, by decide⟩,
    ⟨_, rfl, by decide, by decide⟩, ⟨_, rfl, by decide, by decide⟩, ⟨_, rfl, by decide⟩, ⟨_, rfl, by decide⟩,
    ⟨_, rfl, by decide, by decide⟩⟩

theorem witness_PayloadByteLiesAtItsBitsOfTheBus : payloadBits afterChecksum 1 = some 0x2A := by decide

theorem witness_InvariantHoldsAfterReset : ({ vectorBuild with maxPayload := 255, timeout := 0 } : Params).ok := by decide

theorem witness_EveryStepKeepsTheBaseInvariant :
    BaseInv beforeChecksum ∧ (after (step { beforeChecksum with agenda := [.lc 0b11 0] })).isSome = true := by decide

theorem witness_EveryWiredStepKeepsTheInvariant :
    BlockInv { beforeChecksum with agenda := [.rd false 15] } ∧ NextWired { beforeChecksum with agenda := [.rd false 15] } ∧
    (after (step { beforeChecksum with agenda := [.rd false 15] })).isSome = true := by decide

theorem witness_WiredBlockNeverStops :
    BlockInv { beforeChecksum with agenda := [.sync .tail 1] } ∧ NextWired { beforeChecksum with agenda := [.sync .tail 1] } ∧
    NextAllowed { beforeChecksum with agenda := [.sync .tail 1] } := by decide

theorem witness_ChecksumReflectsTheBytesStoredSoFar :
    (BlockInv beforePayload ∧ beforePayload.st = .readPayload) ∧ (BlockInv beforeChecksum ∧ beforeChecksum.st = .readChecksum) :=
  ⟨by decide, by decide⟩

theorem witness_QuiescentRunningBlockHasConsumedEverything :
    BlockInv { afterChecksum with tailSeen := 5 } ∧ Quiescent { afterChecksum with tailSeen := 5 } ∧
    ({ afterChecksum with tailSeen := 5 } : State).halted = false := ⟨by decide, by decide, rfl⟩

theorem witness_ModelFaultsOutsideItsArraysAndOnUnwrittenBytes_fifo :
    (wrFull (fifoAt 4 0 0 0 []) = false ∧ (fifoAt 4 0 0 0 []).cfg.fifoDepth ≤ (fifoAt 4 0 0 0 []).head) ∧
    (rdEmpty (fifoAt 0 4 0 0 []) = false ∧ (fifoAt 0 4 0 0 []).cfg.fifoDepth ≤ (fifoAt 0 4 0 0 []).tail) ∧
    (rdEmpty (fifoAt 1 3 1 3 []) = false ∧ (fifoAt 1 3 1 3 []).tail < (fifoAt 1 3 1 3 []).cfg.fifoDepth ∧
      memRead (fifoAt 1 3 1 3 []).fifoMem (fifoAt 1 3 1 3 []).tail = none) := by decide
theorem witness_ModelFaultsOutsideItsArraysAndOnUnwrittenBytes_scratch :
    vectorReset.cfg.maxPayload ≤ (decoderAt .readPayload 32 32 0 [] 0).widx ∧
    vectorReset.cfg.maxPayload < (decoderAt .readChecksum 33 33 0 [] 0).len ∧
    ((decoderAt .readChecksum 2 2 0 [(0, 1)] 0).len ≤ vectorReset.cfg.maxPayload ∧
      1 < (decoderAt .readChecksum 2 2 0 [(0, 1)] 0).len ∧
      memRead (decoderAt .readChecksum 2 2 0 [(0, 1)] 0).scratch 1 = none) := by decide

theorem witness_GrayCodesOfSuccessiveIndicesDifferInOneBit : 1 ≤ 3 ∧ 7 < 2 ^ 3 := by decide

theorem witness_SampleOfAGrayCodedIndexIsOldOrNew : 1 ≤ 3 ∧ 7 < 2 ^ 3 ∧ SampleBetween (gray 7) (gray ((7 + 1) % 2 ^ 3)) 4 :=
  ⟨by decide, by decide, fun _ => .inl rfl⟩

end Sys2Proof.Tests
end

/-! SUPPORT. The derived widths of R7, and what one step does with the move at the front of the agenda. -/

namespace Sys2Proof.Params

/-- LEN_W is the number of binary digits of MAX_PAYLOAD, so every width that holds MAX_PAYLOAD is at least LEN_W (R7). -/
theorem lenW_le_iff {p : Params} (h : 1 ≤ p.maxPayload) (w : Nat) : p.lenW ≤ w ↔ p.maxPayload < 2 ^ w :=
  Nat.log2_lt (by omega)

/-- A ring of at least two slots needs at least one index bit (R6, R7). -/
theorem one_le_addrW {p : Params} (h : 2 ≤ p.fifoDepth) : 1 ≤ p.addrW :=
  (Nat.le_log2 (by omega)).2 h

end Sys2Proof.Params

namespace Sys2Proof.Machine

/-- The coming moves are inputs (R47): which operation a move selects does not depend on the moves after it. -/
@[simp] theorem fetch_withAgenda (s : State) (l : List Event) (e : Event) : fetch (s.withAgenda l) e = fetch s e := by
  cases e <;> rfl

variable {s : State} {e : Event} {rest : List Event}

theorem step_of_no_move (ha : s.agenda = []) : step s = .next s := by
  simp only [step, ha]

theorem step_of_fetch_ok {i : Instr} (ha : s.agenda = e :: rest) (hf : fetch s e = .ok i) :
    step s = exec i (s.withAgenda rest) := by
  simp only [step, ha, fetch_withAgenda, hf]

theorem step_of_fetch_error {r : Reject} (ha : s.agenda = e :: rest) (hf : fetch s e = .error r) :
    step s = withoutOperation r (s.withAgenda rest) := by
  simp only [step, ha, fetch_withAgenda, hf]

end Sys2Proof.Machine

/-! PROOFS. The obligations on the scope of the model: the derived widths and the step. -/

namespace Sys2Proof.Proofs

open Sys2Proof.Machine

/-- Settles O23: LEN_W holds MAX_PAYLOAD and is at most every width that does; for ADDR_W, a depth is a power of two and at least 2. -/
theorem derivedWidthsHoldTheirValues : Obligations.DerivedWidthsHoldTheirValues := by
  rintro p ⟨hpay, -, hdepth, hpow, -⟩
  exact ⟨maxPayload_lt p, fun w => (Params.lenW_le_iff hpay w).2, hpow, Params.one_le_addrW hdepth⟩

/-- Settles O6: the three branches of the step, where fetching is decoding the key that the move's drive assembles. -/
theorem stepRunsTheDecodedOperation : Obligations.StepRunsTheDecodedOperation :=
  ⟨fun _ _ _ _ ha hf => step_of_fetch_ok ha hf, fun _ _ _ ha hf => step_of_fetch_error ha hf,
    fun _ ha => step_of_no_move ha⟩

end Sys2Proof.Proofs

/-! SUPPORT. The ring when one index advances: distances, the ring invariant, and what the ring holds (R29, R61, R189, R190). -/

namespace Sys2Proof.Machine

variable {p : Params} {a b c k : Nat}

@[simp] theorem forward_zero (ha : a < p.fifoDepth) : forward p a 0 = a := Nat.mod_eq_of_lt ha

theorem forward_forward (a j k : Nat) : forward p (forward p a j) k = forward p a (j + k) := by
  simp only [forward, Nat.mod_add_mod, Nat.add_assoc]

@[simp] theorem ringDist_self (a : Nat) : ringDist p a a = 0 := by
  simp [ringDist]

/-- The far end of a distance moves `k` places ahead, without going round onto the near end. -/
theorem ringDist_forward_right (ha : a < p.fifoDepth) (hb : b < p.fifoDepth) (hk : ringDist p a b + k < p.fifoDepth) :
    ringDist p a (forward p b k) = ringDist p a b + k := by
  have hf : forward p b k < p.fifoDepth := Nat.mod_lt _ (by omega)
  rw [ringDist_eq ha hb] at hk ⊢
  rw [ringDist_eq ha hf, forward_eq hb (by omega)]
  split_ifs at hk ⊢ <;> omega

/-- The near end of a distance moves `k` places towards the far end. -/
theorem ringDist_forward_left (ha : a < p.fifoDepth) (hb : b < p.fifoDepth) (hk : k ≤ ringDist p a b) :
    ringDist p (forward p a k) b = ringDist p a b - k := by
  have hf : forward p a k < p.fifoDepth := Nat.mod_lt _ (by omega)
  rw [ringDist_eq ha hb] at hk ⊢
  rw [ringDist_eq hf hb, forward_eq ha (by split_ifs at hk <;> omega)]
  split_ifs at hk ⊢ <;> omega

/-- Distances along one way round add up. -/
theorem ringDist_add (ha : a < p.fifoDepth) (hb : b < p.fifoDepth) (hc : c < p.fifoDepth)
    (h : ringDist p a b + ringDist p b c < p.fifoDepth) : ringDist p a c = ringDist p a b + ringDist p b c := by
  rw [← ringDist_forward_right ha hb h, forward_ringDist hb hc]

/-- Two indices in range are no distance apart only when they are equal. -/
theorem ringDist_pos (ha : a < p.fifoDepth) (hb : b < p.fifoDepth) (hne : a ≠ b) : 1 ≤ ringDist p a b := by
  rw [ringDist_eq ha hb]
  split_ifs <;> omega

/-- An index whose successor is not `a` is less than FIFO_DEPTH − 1 places ahead of `a`. -/
theorem ringDist_succ_lt (ha : a < p.fifoDepth) (hb : b < p.fifoDepth) (hne : nextIndex p b ≠ a) :
    ringDist p a b + 1 < p.fifoDepth := by
  rw [nextIndex_eq hb] at hne
  rw [ringDist_eq ha hb]
  split_ifs at hne ⊢ <;> omega

/-! ## The ring invariant, one rule for each index that advances -/

/-- The ring invariant (R29) on bare indices, so that a rule about one index names that index alone. -/
def RingAt (p : Params) (head tail headSeen tailSeen : Nat) : Prop :=
  head < p.fifoDepth ∧ tail < p.fifoDepth ∧ headSeen < p.fifoDepth ∧ tailSeen < p.fifoDepth ∧
    ringDist p tailSeen tail + ringDist p tail headSeen + ringDist p headSeen head = ringDist p tailSeen head ∧
    ringDist p tailSeen head ≤ p.fifoDepth - 1

theorem ringInv_iff_ringAt (s : State) : RingInv s ↔ RingAt s.cfg s.head s.tail s.headSeen s.tailSeen := Iff.rfl

namespace RingAt

variable {head tail headSeen tailSeen : Nat}

/-- `head` advances over a slot that the producer's view shows free (R181). -/
theorem advanceHead (h : RingAt p head tail headSeen tailSeen) (hfree : nextIndex p head ≠ tailSeen) :
    RingAt p (forward p head 1) tail headSeen tailSeen := by
  obtain ⟨hh, ht, hhs, hts, hsum, hle⟩ := h
  have hroom := ringDist_succ_lt hts hh hfree
  refine ⟨Nat.mod_lt _ (by omega), ht, hhs, hts, ?_, ?_⟩
  · rw [ringDist_forward_right hhs hh (by omega), ringDist_forward_right hts hh hroom]
    omega
  · rw [ringDist_forward_right hts hh hroom]
    omega

/-- `tail` advances over a slot that the consumer's view shows filled (R183). -/
theorem advanceTail (h : RingAt p head tail headSeen tailSeen) (hfull : tail ≠ headSeen) :
    RingAt p head (forward p tail 1) headSeen tailSeen := by
  obtain ⟨hh, ht, hhs, hts, hsum, hle⟩ := h
  have hpos := ringDist_pos ht hhs hfull
  refine ⟨hh, Nat.mod_lt _ (by omega), hhs, hts, ?_, hle⟩
  rw [ringDist_forward_right hts ht (by omega), ringDist_forward_left ht hhs hpos]
  omega

/-- `head_seen` moves towards `head` (R185). -/
theorem advanceHeadSeen (h : RingAt p head tail headSeen tailSeen) (hk : k ≤ ringDist p headSeen head) :
    RingAt p head tail (forward p headSeen k) tailSeen := by
  obtain ⟨hh, ht, hhs, hts, hsum, hle⟩ := h
  refine ⟨hh, ht, Nat.mod_lt _ (by omega), hts, ?_, hle⟩
  rw [ringDist_forward_right ht hhs (by omega), ringDist_forward_left hhs hh hk]
  omega

/-- `tail_seen` moves towards `tail` (R186). -/
theorem advanceTailSeen (h : RingAt p head tail headSeen tailSeen) (hk : k ≤ ringDist p tailSeen tail) :
    RingAt p head tail headSeen (forward p tailSeen k) := by
  obtain ⟨hh, ht, hhs, hts, hsum, hle⟩ := h
  refine ⟨hh, ht, hhs, Nat.mod_lt _ (by omega), ?_, ?_⟩
  · rw [ringDist_forward_left hts ht hk, ringDist_forward_left hts hh (by omega)]
    omega
  · rw [ringDist_forward_left hts hh (by omega)]
    omega

/-- What lies between `tail` and `head` is what the consumer sees and what it does not see yet. -/
theorem dist_tail_head (h : RingAt p head tail headSeen tailSeen) :
    ringDist p tail head = ringDist p tail headSeen + ringDist p headSeen head := by
  obtain ⟨hh, ht, hhs, -, hsum, hle⟩ := h
  exact ringDist_add ht hhs hh (by omega)

end RingAt

variable {s t : State}

theorem ringInv_resetWith (p : Params) (l : List Event) (hd : 2 ≤ p.fifoDepth) : RingInv (State.resetWith p l) := by
  have h0 : 0 < p.fifoDepth := by omega
  exact ⟨h0, h0, h0, h0, by simp [State.resetWith], by simp [State.resetWith]⟩

theorem ringInv_push {v : Byte} (hr : RingInv s) (h : pushByte v s = .next t) : RingInv t := by
  rcases pushByte_cases h with ⟨-, rfl⟩ | ⟨hfull, -, rfl⟩
  · exact hr
  · exact ((ringInv_iff_ringAt s).1 hr).advanceHead (by simpa [wrFull] using hfull)

theorem ringInv_pop {r : Option Byte} (hr : RingInv s) (h : popByte s = .ok (r, t)) : RingInv t := by
  rcases popByte_cases h with ⟨-, -, rfl⟩ | ⟨v, hne, -, -, -, rfl⟩
  · exact hr
  · exact ((ringInv_iff_ringAt s).1 hr).advanceTail (by simpa [rdEmpty] using hne)

/-- What SYNC_HEAD can do. -/
theorem execSyncHead_cases (h : execSyncHead k s = .next t) :
    k ≤ ringDist s.cfg s.headSeen s.head ∧ t = s.withHeadSeen (forward s.cfg s.headSeen k) := by
  unfold execSyncHead at h
  split at h
  · exact ⟨‹_›, (Host.Outcome.next.inj h).symm⟩
  · cases h

/-- What SYNC_TAIL can do. -/
theorem execSyncTail_cases (h : execSyncTail k s = .next t) :
    k ≤ ringDist s.cfg s.tailSeen s.tail ∧ t = s.withTailSeen (forward s.cfg s.tailSeen k) := by
  unfold execSyncTail at h
  split at h
  · exact ⟨‹_›, (Host.Outcome.next.inj h).symm⟩
  · cases h

theorem ringInv_syncHead (hr : RingInv s) (h : execSyncHead k s = .next t) : RingInv t := by
  obtain ⟨hk, rfl⟩ := execSyncHead_cases h
  exact ((ringInv_iff_ringAt s).1 hr).advanceHeadSeen hk

theorem ringInv_syncTail (hr : RingInv s) (h : execSyncTail k s = .next t) : RingInv t := by
  obtain ⟨hk, rfl⟩ := execSyncTail_cases h
  exact ((ringInv_iff_ringAt s).1 hr).advanceTailSeen hk

/-! ## First in, first out: what the ring holds after a push and a pop -/

/-- The slots from `tail` on that are occupied are not the slot at `head`. -/
theorem forward_tail_ne_head (hh : s.head < s.cfg.fifoDepth) (ht : s.tail < s.cfg.fifoDepth) {i : Nat}
    (hi : i < occupancy s) : forward s.cfg s.tail i ≠ s.head := by
  intro heq
  have hocc : occupancy s < s.cfg.fifoDepth := Nat.mod_lt _ (by omega)
  have hdist := ringDist_forward_right ht ht (k := i) (by simp; omega)
  rw [heq, ringDist_self, Nat.zero_add] at hdist
  exact absurd hdist (Nat.ne_of_gt hi)

/-- After an accepted push the ring holds one more byte, the newest (R181). -/
theorem contents_push (hr : RingInv s) (hfree : nextIndex s.cfg s.head ≠ s.tailSeen) (v : Byte) :
    contents (s.withFifo (memWrite s.fifoMem s.head v) (nextIndex s.cfg s.head)) = contents s ++ [some v] := by
  have hocc := ((ringInv_iff_ringAt s).1 hr).dist_tail_head
  obtain ⟨hh, ht, hhs, hts, hsum, hle⟩ := hr
  have hroom : ringDist s.cfg s.tail s.head + 1 < s.cfg.fifoDepth := by
    have := ringDist_succ_lt hts hh hfree
    omega
  have hnew : occupancy (s.withFifo (memWrite s.fifoMem s.head v) (nextIndex s.cfg s.head)) = occupancy s + 1 :=
    ringDist_forward_right ht hh hroom
  have hlast : forward s.cfg s.tail (occupancy s) = s.head := forward_ringDist ht hh
  simp only [contents, hnew, List.range_succ, List.map_append, List.map_singleton, State.withFifo_fifoMem,
    State.withFifo_cfg, State.withFifo_tail, hlast, memRead_memWrite_same]
  congr 1
  refine List.map_congr_left fun i hi => ?_
  exact memRead_memWrite_other _ _ (forward_tail_ne_head hh ht (List.mem_range.mp hi))

/-- Before a pop the ring holds one more byte, the oldest (R183). -/
theorem contents_pop (hr : RingInv s) (hne : s.tail ≠ s.headSeen) :
    contents s = memRead s.fifoMem s.tail :: contents (s.withTail (nextIndex s.cfg s.tail)) := by
  have hocc := ((ringInv_iff_ringAt s).1 hr).dist_tail_head
  obtain ⟨hh, ht, hhs, -, -, -⟩ := hr
  have hpos : 1 ≤ occupancy s := by
    have := ringDist_pos ht hhs hne
    rw [occupancy]
    omega
  have hnew : occupancy (s.withTail (nextIndex s.cfg s.tail)) = occupancy s - 1 :=
    ringDist_forward_left ht hh hpos
  have hold : occupancy s = occupancy (s.withTail (nextIndex s.cfg s.tail)) + 1 := by omega
  rw [contents, hold, List.range_succ_eq_map, List.map_cons, List.map_map, forward_zero ht]
  congr 1
  refine List.map_congr_left fun i _ => ?_
  simp only [Function.comp, State.withTail_cfg, State.withTail_fifoMem, State.withTail_tail, Nat.succ_eq_add_one]
  rw [Nat.add_comm i 1, ← forward_forward]
  rfl

theorem acceptedBytes_append_accepted (l : List Submission) (v : Byte) :
    acceptedBytes (l ++ [⟨v, .accepted⟩]) = acceptedBytes l ++ [v] := by
  simp [acceptedBytes]

theorem acceptedBytes_append_rejected (l : List Submission) (v : Byte) :
    acceptedBytes (l ++ [⟨v, .rejectedChannelFull⟩]) = acceptedBytes l := by
  simp [acceptedBytes]

theorem poppedBytes_append_some (l : List (Option Byte)) (v : Byte) :
    poppedBytes (l ++ [some v]) = poppedBytes l ++ [v] := by
  simp [poppedBytes]

theorem poppedBytes_append_none (l : List (Option Byte)) : poppedBytes (l ++ [none]) = poppedBytes l := by
  simp [poppedBytes]

/-- Accepted bytes are the popped bytes and what the ring holds, after a push too (R80). -/
theorem fifoInv_push {v : Byte} (hr : RingInv s) (hf : FifoInv s) (h : pushByte v s = .next t) : FifoInv t := by
  rcases pushByte_cases h with ⟨-, rfl⟩ | ⟨hfull, -, rfl⟩
  · rw [FifoInv, State.withAnswer_submissions, acceptedBytes_append_rejected]
    exact hf
  · have hc := contents_push hr (by simpa [wrFull] using hfull) v
    calc _ = (acceptedBytes s.submissions).map some ++ [some v] := by
          simp [acceptedBytes_append_accepted]
      _ = (poppedBytes s.pops).map some ++ (contents s ++ [some v]) := by rw [hf, List.append_assoc]
      _ = _ := by rw [← hc]; rfl

/-- Accepted bytes are the popped bytes and what the ring holds, after a pop too (R80). -/
theorem fifoInv_pop {r : Option Byte} (hr : RingInv s) (hf : FifoInv s) (h : popByte s = .ok (r, t)) : FifoInv t := by
  rcases popByte_cases h with ⟨-, -, rfl⟩ | ⟨v, hne, -, hv, -, rfl⟩
  · rw [FifoInv, State.withPopResult_pops, poppedBytes_append_none]
    exact hf
  · have hc := contents_pop hr (by simpa [rdEmpty] using hne)
    rw [hv] at hc
    calc _ = (poppedBytes s.pops).map some ++ contents s := hf
      _ = (poppedBytes s.pops ++ [v]).map some ++ contents (s.withTail (nextIndex s.cfg s.tail)) := by simp [hc]
      _ = _ := by rw [← poppedBytes_append_some]; rfl

end Sys2Proof.Machine

/-! SUPPORT. What one operation leaves unchanged, and which parts of the invariant each register update keeps. -/

namespace Sys2Proof.Machine

variable {s t u : State} {b : Byte}

/-! ## The shared register writes, as the updates whose fields Laws/State.lean gives -/

@[simp] theorem clearSum_eq (s : State) : clearSum s = s.withCsum 0 := rfl
@[simp] theorem seedSum_eq (v : Byte) (s : State) : seedSum v s = s.withCsum v := rfl
@[simp] theorem addSum_eq (v : Byte) (s : State) : addSum v s = s.withCsum (s.csum + v) := rfl
@[simp] theorem clearLength_eq (s : State) : clearLength s = s.withLength 0 0 := rfl
@[simp] theorem loadLength_eq (v : Byte) (s : State) : loadLength v s = s.withLength (lengthOperand s.cfg v) 0 := rfl
@[simp] theorem incIndex_eq (s : State) : incIndex s = s.withLength s.len (nextWidx s.cfg s.widx) := rfl
@[simp] theorem stampTime_eq (k : Nat) (s : State) : stampTime k s = s.withLastTs (timeOperand s.cfg k) := rfl
@[simp] theorem decoderClear_eq (s : State) :
    decoderClear s = ((s.withCsum 0).withLength 0 0).withSt .waitSync1 := rfl

/-! ## What the operations of the decoder can do and what they leave -/

/-- What POP can do, by the shared read of the FIFO. -/
theorem execPop_cases (h : execPop s = .next t) : ∃ r, popByte s = .ok (r, t) := by
  unfold execPop at h
  split at h
  · rename_i r s' hp
    exact ⟨r, by rw [hp, Host.Outcome.next.inj h]⟩
  · cases h

theorem popByte_none (he : rdEmpty s = true) : popByte s = .ok (none, s.withPopResult none) := by
  simp [popByte, he]

/-- What PAY_LAST can do. -/
theorem execPayLast_cases (h : execPayLast b s = .next t) :
    ∃ u, storePayload b s = .next u ∧ t = u.withSt .readChecksum := by
  obtain ⟨u, hu, ht⟩ := andThen_eq_next.mp h
  exact ⟨u, hu, (Host.Outcome.next.inj ht).symm⟩

/-- What CHK_OK can do. -/
theorem execChkOk_cases (h : execChkOk b s = .next t) : ∃ u, emit s = .next u ∧ t = decoderClear u := by
  obtain ⟨u, hu, ht⟩ := andThen_eq_next.mp h
  exact ⟨u, hu, (Host.Outcome.next.inj ht).symm⟩

/-- The second state has the parameters, the FIFO and its records, `halted` and the coming moves of the first: what no operation of
the decoder writes (R49, R170). -/
structure SameOutsideDecoder (s t : State) : Prop where
  cfg : t.cfg = s.cfg := by rfl
  fifoMem : t.fifoMem = s.fifoMem := by rfl
  head : t.head = s.head := by rfl
  tail : t.tail = s.tail := by rfl
  headSeen : t.headSeen = s.headSeen := by rfl
  tailSeen : t.tailSeen = s.tailSeen := by rfl
  halted : t.halted = s.halted := by rfl
  submissions : t.submissions = s.submissions := by rfl
  pops : t.pops = s.pops := by rfl
  agenda : t.agenda = s.agenda := by rfl

theorem runTransition_sameOutsideDecoder {x : Transition} (h : runTransition x b s = .next t) :
    SameOutsideDecoder s t := by
  cases x with
  | payMore =>
    obtain ⟨-, rfl⟩ := storePayload_cases h
    exact {}
  | payLast =>
    obtain ⟨u, hu, rfl⟩ := execPayLast_cases h
    obtain ⟨-, rfl⟩ := storePayload_cases hu
    exact {}
  | chkOk =>
    obtain ⟨u, hu, rfl⟩ := execChkOk_cases (b := b) h
    obtain ⟨-, bs, -, rfl⟩ := emit_cases hu
    exact {}
  | _ =>
    cases h
    exact {}

theorem beforeDispatch_sameOutsideDecoder (k : Nat) (s : State) : SameOutsideDecoder s (beforeDispatch k s) := by
  unfold beforeDispatch
  split <;> exact {}

theorem feed_sameOutsideDecoder {k : Nat} (h : feed b k s = .next t) : SameOutsideDecoder s t := by
  rw [feed_eq_dispatch] at h
  have hb := beforeDispatch_sameOutsideDecoder k s
  have hd := runTransition_sameOutsideDecoder h
  exact ⟨hd.cfg.trans hb.cfg, hd.fifoMem.trans hb.fifoMem, hd.head.trans hb.head, hd.tail.trans hb.tail,
    hd.headSeen.trans hb.headSeen, hd.tailSeen.trans hb.tailSeen, hd.halted.trans hb.halted,
    hd.submissions.trans hb.submissions, hd.pops.trans hb.pops, hd.agenda.trans hb.agenda⟩

theorem SameOutsideDecoder.ringInv (h : SameOutsideDecoder s t) (hr : RingInv s) : RingInv t := by
  simpa only [RingInv, h.cfg, h.head, h.tail, h.headSeen, h.tailSeen] using hr

theorem ringInv_consume {k : Nat} (hr : RingInv s) (h : execConsume k s = .next t) : RingInv t := by
  rcases execConsume_cases h with ⟨-, rfl⟩ | ⟨v, he, ht, hv, hfeed⟩
  · exact hr
  · have hpop := ringInv_pop hr (popByte_some he ht hv)
    exact (feed_sameOutsideDecoder hfeed).ringInv hpop

/-- Every operation keeps the ring invariant; only PUSH, POP, the synchronisers, CONSUME and RESET write an index. -/
theorem exec_keeps_ringInv {i : Instr} (hd : 2 ≤ s.cfg.fifoDepth) (hr : RingInv s) (h : exec i s = .next t) : RingInv t := by
  cases i with
  | push v => exact ringInv_push hr h
  | pop =>
    obtain ⟨r, hp⟩ := execPop_cases h
    exact ringInv_pop hr hp
  | syncHead k => exact ringInv_syncHead hr h
  | syncTail k => exact ringInv_syncTail hr h
  | consume k => exact ringInv_consume hr h
  | reset =>
    cases h
    exact ringInv_resetWith _ _ hd
  | payLast v => exact (runTransition_sameOutsideDecoder (x := .payLast) h).ringInv hr
  | payMore v => exact (runTransition_sameOutsideDecoder (x := .payMore) h).ringInv hr
  | chkOk v => exact (runTransition_sameOutsideDecoder (x := .chkOk) h).ringInv hr
  | _ =>
    cases h
    exact hr

/-! ## The base invariant, one rule for each register update

The updates `withSt`, `withCsum`, `withHalted` and `withAgenda` write nothing that `BaseInv` reads: it is the same statement after them. -/

theorem baseInv_withLength {n w : Nat} (hs : BaseInv s) (hn : n < 2 ^ s.cfg.lenW) (hw : w < 2 ^ s.cfg.lenW) :
    BaseInv (s.withLength n w) := by
  obtain ⟨hok, hring, hfifo, hmem, ⟨-, -, hframeLen, hts⟩, hframe⟩ := hs
  exact ⟨hok, hring, hfifo, hmem, ⟨hn, hw, hframeLen, hts⟩, hframe⟩

theorem baseInv_stampTime (hs : BaseInv s) (k : Nat) : BaseInv (stampTime k s) := by
  obtain ⟨hok, hring, hfifo, hmem, ⟨hlen, hwidx, hframeLen, -⟩, hframe⟩ := hs
  exact ⟨hok, hring, hfifo, hmem, ⟨hlen, hwidx, hframeLen, timeOperand_lt _ _⟩, hframe⟩

theorem baseInv_clearLength (hs : BaseInv s) : BaseInv (clearLength s) :=
  baseInv_withLength hs (Nat.two_pow_pos _) (Nat.two_pow_pos _)

theorem baseInv_decoderClear (hs : BaseInv s) : BaseInv (decoderClear s) :=
  baseInv_clearLength (s := clearSum s) hs

theorem baseInv_loadLength (hs : BaseInv s) (b : Byte) : BaseInv (loadLength b s) :=
  baseInv_withLength hs (lengthOperand_lt _ _) (Nat.two_pow_pos _)

theorem baseInv_incIndex (hs : BaseInv s) : BaseInv (incIndex s) := by
  have ⟨_, _, _, _, ⟨hlen, _⟩, _⟩ := hs
  exact baseInv_withLength hs hlen (nextWidx_lt _ _)

theorem baseInv_storePayload (hs : BaseInv s) (h : storePayload b s = .next t) : BaseInv t := by
  obtain ⟨hw, rfl⟩ := storePayload_cases h
  obtain ⟨hok, hring, hfifo, ⟨hwf, hswf, hpwf, hin, hsin, hpin⟩, ⟨hlen, -, hwidth⟩, hframe⟩ := hs
  exact ⟨hok, hring, hfifo, ⟨hwf, wf_memWrite _ _ hswf, hpwf, hin, within_memWrite _ hw hsin, hpin⟩,
    ⟨hlen, nextWidx_lt _ _, hwidth⟩, hframe⟩

theorem baseInv_withFrameValid_false (hs : BaseInv s) : BaseInv (s.withFrameValid false) := by
  obtain ⟨hok, hring, hfifo, hmem, hwidth, hall, hlast, hnone⟩ := hs
  exact ⟨hok, hring, hfifo, hmem, hwidth, hall, hlast, fun hn => ⟨(hnone hn).1, rfl⟩⟩

/-- After EMIT the frame registers show the frame that the trace ends with (R206). -/
theorem frameInv_emit (hf : FrameInv s) (h : emit s = .next t) : FrameInv t := by
  obtain ⟨hlen, bs, hbs, rfl⟩ := emit_cases h
  obtain ⟨hall, -, -⟩ := hf
  refine ⟨fun f hmem => ?_, fun _ => ?_, fun hn => by simp at hn⟩
  · rcases List.mem_append.mp hmem with hold | hnew
    · exact hall f hold
    · rw [List.mem_singleton.mp hnew]
      exact ⟨firstBytes_length hbs, hlen⟩
  · simp [frameOut, hbs]

theorem baseInv_emit (hs : BaseInv s) (h : emit s = .next t) : BaseInv t := by
  obtain ⟨hok, hring, hfifo, ⟨hwf, hswf, -, hin, hsin, -⟩, ⟨hlenW, hwidx, -, hts⟩, hframe⟩ := hs
  have hframe' := frameInv_emit hframe h
  obtain ⟨hlen, bs, -, rfl⟩ := emit_cases h
  exact ⟨hok, hring, hfifo, ⟨hwf, hswf, hswf, hin, hsin, hsin⟩, ⟨hlenW, hwidx, hlen, hts⟩, hframe'⟩

theorem baseInv_push (hs : BaseInv s) (h : pushByte b s = .next t) : BaseInv t := by
  obtain ⟨hok, hring, hfifo, ⟨hwf, hswf, hpwf, hin, hsin, hpin⟩, hwidth, hframe⟩ := hs
  have hring' := ringInv_push hring h
  have hfifo' := fifoInv_push hring hfifo h
  rcases pushByte_cases h with ⟨-, rfl⟩ | ⟨-, hh, rfl⟩
  · exact ⟨hok, hring', hfifo', ⟨hwf, hswf, hpwf, hin, hsin, hpin⟩, hwidth, hframe⟩
  · exact ⟨hok, hring', hfifo', ⟨wf_memWrite _ _ hwf, hswf, hpwf, within_memWrite _ hh hin, hsin, hpin⟩, hwidth, hframe⟩

theorem baseInv_pop {r : Option Byte} (hs : BaseInv s) (h : popByte s = .ok (r, t)) : BaseInv t := by
  obtain ⟨hok, hring, hfifo, hmem, hwidth, hframe⟩ := hs
  have hring' := ringInv_pop hring h
  have hfifo' := fifoInv_pop hring hfifo h
  rcases popByte_cases h with ⟨-, -, rfl⟩ | ⟨v, -, -, -, -, rfl⟩ <;>
    exact ⟨hok, hring', hfifo', hmem, hwidth, hframe⟩

theorem baseInv_syncHead {k : Nat} (hs : BaseInv s) (h : execSyncHead k s = .next t) : BaseInv t := by
  obtain ⟨hok, hring, hrest⟩ := hs
  have hring' := ringInv_syncHead hring h
  obtain ⟨-, rfl⟩ := execSyncHead_cases h
  exact ⟨hok, hring', hrest⟩

theorem baseInv_syncTail {k : Nat} (hs : BaseInv s) (h : execSyncTail k s = .next t) : BaseInv t := by
  obtain ⟨hok, hring, hrest⟩ := hs
  have hring' := ringInv_syncTail hring h
  obtain ⟨-, rfl⟩ := execSyncTail_cases h
  exact ⟨hok, hring', hrest⟩

theorem baseInv_resetWith {p : Params} (hok : p.ok) (l : List Event) : BaseInv (State.resetWith p l) := by
  refine ⟨hok, ?_, ?_, ⟨rfl, rfl, rfl, rfl, rfl, rfl⟩, ?_, ?_⟩
  · obtain ⟨-, -, hd, -⟩ := hok
    exact ringInv_resetWith p l hd
  · simp [State.resetWith, FifoInv, acceptedBytes, poppedBytes, contents, occupancy]
  · exact ⟨Nat.two_pow_pos _, Nat.two_pow_pos _, Nat.zero_le _, Nat.two_pow_pos _⟩
  · simp [FrameInv, State.resetWith]

theorem runTransition_keeps_baseInv {x : Transition} (hs : BaseInv s) (h : runTransition x b s = .next t) : BaseInv t := by
  cases x with
  | ws1Hit | ws1Miss | ws2Hit | ws2Miss =>
    cases h
    exact hs
  | lenOver | chkBad =>
    cases h
    exact baseInv_decoderClear hs
  | lenZero =>
    cases h
    exact baseInv_loadLength (s := seedSum 0 s) hs 0
  | lenOk =>
    cases h
    exact baseInv_loadLength (s := seedSum b s) hs b
  | payMore => exact baseInv_storePayload hs h
  | payLast =>
    obtain ⟨u, hu, rfl⟩ := execPayLast_cases h
    have hstored : BaseInv u := baseInv_storePayload hs hu
    exact hstored
  | chkOk =>
    obtain ⟨u, hu, rfl⟩ := execChkOk_cases (b := b) h
    exact baseInv_decoderClear (baseInv_emit hs hu)

theorem baseInv_beforeDispatch (hs : BaseInv s) (k : Nat) : BaseInv (beforeDispatch k s) := by
  unfold beforeDispatch
  split
  · exact baseInv_stampTime (baseInv_decoderClear hs) k
  · exact baseInv_stampTime hs k

theorem baseInv_feed {k : Nat} (hs : BaseInv s) (h : feed b k s = .next t) : BaseInv t := by
  rw [feed_eq_dispatch] at h
  exact runTransition_keeps_baseInv (baseInv_beforeDispatch hs k) h

theorem baseInv_consume {k : Nat} (hs : BaseInv s) (h : execConsume k s = .next t) : BaseInv t := by
  rcases execConsume_cases h with ⟨he, rfl⟩ | ⟨v, he, ht, hv, hfeed⟩
  · exact baseInv_withFrameValid_false (baseInv_pop hs (popByte_none he))
  · exact baseInv_feed (baseInv_withFrameValid_false (baseInv_pop hs (popByte_some he ht hv))) hfeed

/-- Every operation keeps the base invariant. -/
theorem exec_keeps_baseInv {i : Instr} (hs : BaseInv s) (h : exec i s = .next t) : BaseInv t := by
  cases i with
  | push v => exact baseInv_push hs h
  | pop =>
    obtain ⟨r, hp⟩ := execPop_cases h
    exact baseInv_pop hs hp
  | syncHead k => exact baseInv_syncHead hs h
  | syncTail k => exact baseInv_syncTail hs h
  | halted | stop | cidle =>
    cases h
    exact baseInv_withFrameValid_false hs
  | consume k => exact baseInv_consume hs h
  | reset =>
    obtain ⟨hok, -⟩ := hs
    cases h
    exact baseInv_resetWith hok _
  | staleClr =>
    cases h
    exact baseInv_decoderClear hs
  | ws1Hit => exact runTransition_keeps_baseInv (x := .ws1Hit) (b := 0) hs h
  | ws1Miss v => exact runTransition_keeps_baseInv (x := .ws1Miss) hs h
  | ws2Hit => exact runTransition_keeps_baseInv (x := .ws2Hit) (b := 0) hs h
  | ws2Miss v => exact runTransition_keeps_baseInv (x := .ws2Miss) hs h
  | lenOver v => exact runTransition_keeps_baseInv (x := .lenOver) hs h
  | lenZero => exact runTransition_keeps_baseInv (x := .lenZero) (b := 0) hs h
  | lenOk v => exact runTransition_keeps_baseInv (x := .lenOk) hs h
  | payLast v => exact runTransition_keeps_baseInv (x := .payLast) hs h
  | payMore v => exact runTransition_keeps_baseInv (x := .payMore) hs h
  | chkOk v => exact runTransition_keeps_baseInv (x := .chkOk) hs h
  | chkBad v => exact runTransition_keeps_baseInv (x := .chkBad) hs h
  | lcClear =>
    cases h
    exact baseInv_clearLength hs
  | lcLoad v =>
    cases h
    exact baseInv_loadLength hs v
  | lcInc =>
    cases h
    exact baseInv_incIndex hs
  | wdStamp k =>
    cases h
    exact baseInv_stampTime hs k
  | wnop | rnop | csHold | csClear | csSeed | csAdd | lcHold | wdHold =>
    cases h
    exact hs

end Sys2Proof.Machine

/-! PROOFS. The obligations on the ring invariant and the base invariant. -/

namespace Sys2Proof.Proofs

open Sys2Proof.Machine

/-- Settles O13: each operation moves an index only as far as the views allow, and the ring's distances shift along with it. -/
theorem everyOperationKeepsTheRingInvariant : Obligations.EveryOperationKeepsTheRingInvariant :=
  fun _ _ _ hd hr h => exec_keeps_ringInv hd hr h

/-- Settles O53: a step only takes its move off the agenda or runs one operation, and every operation keeps the base invariant. -/
theorem everyStepKeepsTheBaseInvariant : Obligations.EveryStepKeepsTheBaseInvariant := by
  intro s t hs h
  rcases step_cases h with ⟨-, rfl⟩ | ⟨e, rest, -, ⟨i, -, hi⟩ | ⟨-, rfl⟩⟩
  · exact hs
  · exact exec_keeps_baseInv (s := s.withAgenda rest) hs hi
  · exact hs

end Sys2Proof.Proofs

/-! SUPPORT. The decoder's invariant: how a state meets it in each parse state, and that every feed keeps it (R36, R37, R126). -/

namespace Sys2Proof.Machine

variable {s t u : State} {b : Byte}

/-! ## The running checksum -/

theorem checksumOf_nil (n : Nat) : checksumOf n [] = BitVec.ofNat 8 n := rfl

theorem checksumOf_append (n : Nat) (bs : List Byte) (b : Byte) : checksumOf n (bs ++ [b]) = checksumOf n bs + b := by
  simp [checksumOf, ← Nat.add_assoc, BitVec.ofNat_add]

/-- The bytes that `firstBytes` collects are the bytes that a read gives. -/
theorem memRead_of_firstBytes {m : Memory} {n : Nat} {bs : List Byte} (h : firstBytes m n = some bs) (i : Nat)
    (hi : i < bs.length) : memRead m i = some bs[i] := by
  induction n generalizing bs with
  | zero =>
    cases h
    simp at hi
  | succ n ih =>
    simp only [firstBytes] at h
    split at h
    · rename_i cs c hcs hc
      cases h
      by_cases hin : i < cs.length
      · rw [List.getElem_append_left hin]
        exact ih hcs hin
      · have hn := firstBytes_length hcs
        have : i = n := by simp at hi; omega
        subst this
        simp [hc, hn]
    · cases h

theorem sumInv_iff (s : State) : SumInv s ↔ ∃ bs, firstBytes s.scratch s.widx = some bs ∧ checksumOf s.len bs = s.csum := by
  simp [SumInv, Option.map_eq_some_iff]

/-- With no byte stored yet the checksum is the length (R160). -/
theorem sumInv_of_widx_zero (hw : s.widx = 0) (hc : s.csum = BitVec.ofNat 8 s.len) : SumInv s := by
  simp [SumInv, hw, hc, checksumOf_nil]

/-- A payload byte goes into `scratch` and into the checksum together (R161). -/
theorem sumInv_storePayload (hs : SumInv s) (h : storePayload b s = .next t) : SumInv t := by
  obtain ⟨hw, rfl⟩ := storePayload_cases h
  obtain ⟨bs, hbs, hsum⟩ := (sumInv_iff s).1 hs
  refine (sumInv_iff _).2 ⟨bs ++ [b], ?_, ?_⟩
  · simpa [nextWidx_eq hw] using firstBytes_memWrite_succ s.scratch b hbs
  · simp [checksumOf_append, hsum]

/-! ## The decoder's invariant, by parse state -/

theorem decoderInv_of_cleared (hst : s.st = .waitSync1 ∨ s.st = .waitSync2 ∨ s.st = .readLength)
    (h : s.len = 0 ∧ s.widx = 0 ∧ s.csum = 0) : DecoderInv s := by
  refine ⟨fun _ => h, fun hp => ?_, fun hc => ?_⟩
  · simp [hp] at hst
  · simp [hc] at hst

theorem decoderInv_of_readPayload (hst : s.st = .readPayload)
    (h : 1 ≤ s.len ∧ s.len ≤ s.cfg.maxPayload ∧ s.widx < s.len ∧ SumInv s) : DecoderInv s :=
  ⟨by simp [hst], fun _ => h, by simp [hst]⟩

theorem decoderInv_of_readChecksum (hst : s.st = .readChecksum)
    (h : s.len ≤ s.cfg.maxPayload ∧ s.widx = s.len ∧ SumInv s) : DecoderInv s :=
  ⟨by simp [hst], by simp [hst], fun _ => h⟩

theorem decoderInv_decoderClear (s : State) : DecoderInv (decoderClear s) :=
  decoderInv_of_cleared (.inl rfl) ⟨rfl, rfl, rfl⟩

theorem decoderInv_resetWith (p : Params) (l : List Event) : DecoderInv (State.resetWith p l) :=
  decoderInv_of_cleared (.inl rfl) ⟨rfl, rfl, rfl⟩

/-- The transition that a byte selects is one whose row of the dispatch table holds; the invariant is needed in READ_PAYLOAD, where
`lc_last` = 0 must mean that more bytes are to come (R153, R161). -/
theorem rowHolds_selected (hd : DecoderInv s) (b : Byte) : rowHolds s b (selected s b) := by
  obtain ⟨-, hpay, -⟩ := hd
  cases hst : s.st with
  | waitSync1 | waitSync2 =>
    simp only [selected, selectTransition, hst]
    split <;> simp_all [rowHolds]
  | readLength =>
    simp only [selected, selectTransition, hst, lcOver, lcZero, decide_eq_true_eq]
    split_ifs <;> simp only [rowHolds, hst, true_and] <;> omega
  | readPayload =>
    obtain ⟨-, -, hw, -⟩ := hpay hst
    simp only [selected, selectTransition, hst, condsOf, lcLast, decide_eq_true_eq]
    split_ifs <;> simp only [rowHolds, hst, true_and] <;> omega
  | readChecksum =>
    simp only [selected, selectTransition, hst, condsOf, csMatch, decide_eq_true_eq]
    split <;> simp_all [rowHolds]

theorem decoderInv_lenOk (h1 : 1 ≤ b.toNat) (hmax : b.toNat ≤ s.cfg.maxPayload) :
    DecoderInv ((loadLength b (seedSum b s)).withSt .readPayload) := by
  have hlen : lengthOperand s.cfg b = b.toNat := lengthOperand_eq hmax
  refine decoderInv_of_readPayload rfl ⟨?_, ?_, ?_, sumInv_of_widx_zero rfl ?_⟩ <;>
    simp [hlen, h1, hmax]
  omega

theorem decoderInv_lenZero (s : State) : DecoderInv ((loadLength 0 (seedSum 0 s)).withSt .readChecksum) := by
  refine decoderInv_of_readChecksum rfl ⟨?_, ?_, sumInv_of_widx_zero rfl ?_⟩ <;>
    simp [lengthOperand]

/-- A transition in a state where its row of the dispatch table holds keeps the decoder's invariant. -/
theorem runTransition_keeps_decoderInv {x : Transition} (hd : DecoderInv s) (hrow : rowHolds s b x)
    (h : runTransition x b s = .next t) : DecoderInv t := by
  have ⟨hclr, hpay, _⟩ := hd
  cases x with
  | ws1Hit =>
    cases h
    obtain ⟨hst, -⟩ := hrow
    exact decoderInv_of_cleared (.inr (.inl rfl)) (hclr (.inl hst))
  | ws2Hit =>
    cases h
    obtain ⟨hst, -⟩ := hrow
    exact decoderInv_of_cleared (.inr (.inr rfl)) (hclr (.inr (.inl hst)))
  | ws1Miss =>
    cases h
    exact hd
  | ws2Miss =>
    cases h
    obtain ⟨hst, -⟩ := hrow
    exact decoderInv_of_cleared (.inl rfl) (hclr (.inr (.inl hst)))
  | lenOver | chkBad =>
    cases h
    exact decoderInv_decoderClear s
  | lenZero =>
    cases h
    exact decoderInv_lenZero s
  | lenOk =>
    cases h
    obtain ⟨-, h1, hmax⟩ := hrow
    exact decoderInv_lenOk h1 hmax
  | payMore =>
    obtain ⟨hst, hmore⟩ := hrow
    obtain ⟨hpos, hmax, -, hsum⟩ := hpay hst
    have hsum' := sumInv_storePayload hsum h
    obtain ⟨hw, rfl⟩ := storePayload_cases h
    exact decoderInv_of_readPayload hst ⟨hpos, hmax, by simpa [nextWidx_eq hw] using hmore, hsum'⟩
  | payLast =>
    obtain ⟨hst, hlast⟩ := hrow
    obtain ⟨-, hmax, -, hsum⟩ := hpay hst
    obtain ⟨u, hu, rfl⟩ := execPayLast_cases h
    have hsum' := sumInv_storePayload hsum hu
    obtain ⟨hw, rfl⟩ := storePayload_cases hu
    exact decoderInv_of_readChecksum rfl ⟨hmax, by simpa [nextWidx_eq hw] using hlast, hsum'⟩
  | chkOk =>
    obtain ⟨u, -, rfl⟩ := execChkOk_cases (b := b) h
    exact decoderInv_decoderClear u

theorem decoderInv_beforeDispatch (hd : DecoderInv s) (k : Nat) : DecoderInv (beforeDispatch k s) := by
  unfold beforeDispatch
  split
  · exact decoderInv_decoderClear s
  · exact hd

theorem decoderInv_feed {k : Nat} (hd : DecoderInv s) (h : feed b k s = .next t) : DecoderInv t := by
  rw [feed_eq_dispatch] at h
  have hd' := decoderInv_beforeDispatch hd k
  exact runTransition_keeps_decoderInv hd' (rowHolds_selected hd' b) h

theorem decoderInv_consume {k : Nat} (hd : DecoderInv s) (h : execConsume k s = .next t) : DecoderInv t := by
  rcases execConsume_cases h with ⟨-, rfl⟩ | ⟨v, -, -, -, hfeed⟩
  · exact hd
  · have hd' : DecoderInv (((s.withTail (nextIndex s.cfg s.tail)).withPopResult (some v)).withFrameValid false) := hd
    exact decoderInv_feed hd' hfeed

/-! ## The operations that the wired block selects -/

/-- The operations that the moves of the wired block select (R99, R105, R106, R97): no command of a module driven alone. -/
def selectedWired : Instr → Bool
  | .push _ | .wnop | .syncHead _ | .syncTail _ | .halted | .stop | .consume _ | .cidle | .reset => true
  | _ => false

theorem selectedWired_of_fetch {e : Event} {i : Instr} (he : e.wired = true) (hf : fetch s e = .ok i) :
    selectedWired i = true := by
  cases e with
  | wr v d =>
    rw [fetch_wr] at hf
    cases hf
    split <;> rfl
  | rd q k =>
    rw [fetch_rd] at hf
    cases hf
    split_ifs <;> rfl
  | sync v k => cases v <;> (cases hf; rfl)
  | rst r =>
    cases r with
    | false =>
      cases hf
      rfl
    | true => cases hf
  | _ => cases he

/-- An operation that the wired block selects keeps the decoder's invariant: only CONSUME and RESET write the decoder. -/
theorem exec_keeps_decoderInv {i : Instr} (hi : selectedWired i = true) (hd : DecoderInv s) (h : exec i s = .next t) :
    DecoderInv t := by
  cases i with
  | push v => rcases pushByte_cases h with ⟨-, rfl⟩ | ⟨-, -, rfl⟩ <;> exact hd
  | syncHead k =>
    obtain ⟨-, rfl⟩ := execSyncHead_cases h
    exact hd
  | syncTail k =>
    obtain ⟨-, rfl⟩ := execSyncTail_cases h
    exact hd
  | wnop | halted | stop | cidle =>
    cases h
    exact hd
  | consume k => exact decoderInv_consume hd h
  | reset =>
    cases h
    exact decoderInv_resetWith _ _
  | _ => cases hi

theorem step_keeps_decoderInv (hd : DecoderInv s) (hw : NextWired s) (h : step s = .next t) : DecoderInv t := by
  rcases step_cases h with ⟨-, rfl⟩ | ⟨e, rest, ha, ⟨i, hf, hi⟩ | ⟨-, rfl⟩⟩
  · exact hd
  · have he : e.wired = true := by simpa [NextWired, ha] using hw
    have hd' : DecoderInv (s.withAgenda rest) := hd
    exact exec_keeps_decoderInv (selectedWired_of_fetch he hf) hd' hi
  · exact hd

end Sys2Proof.Machine

/-! PROOFS. The obligations on the invariant of the wired block. -/

namespace Sys2Proof.Proofs

open Sys2Proof.Machine

/-- Settles O54: with O53 for the base invariant; the decoder's part is kept since a feed selects a transition whose row holds. -/
theorem everyWiredStepKeepsTheInvariant : Obligations.EveryWiredStepKeepsTheInvariant :=
  fun s t ⟨hb, hd⟩ hw h => ⟨everyStepKeepsTheBaseInvariant s t hb h, step_keeps_decoderInv hd hw h⟩

/-- Settles O52: every array and record is empty, every index 0 and the decoder cleared; the build of `State.reset` is a legal one. -/
theorem invariantHoldsAfterReset : Obligations.InvariantHoldsAfterReset := by
  have hreset (p : Params) (l : List Event) (hok : p.ok) : BlockInv (State.resetWith p l) :=
    ⟨baseInv_resetWith hok l, decoderInv_resetWith p l⟩
  exact ⟨hreset, hreset Params.build [] Params.build_ok⟩

/-- Settles O56: by parse state; the stored bytes are those that SumInv adds up. -/
theorem checksumReflectsTheBytesStoredSoFar : Obligations.ChecksumReflectsTheBytesStoredSoFar := by
  rintro s ⟨-, hclr, hpay, hchk⟩
  have hsum : s.st = .readPayload ∨ s.st = .readChecksum → SumInv s := by
    rintro (hst | hst)
    · obtain ⟨-, -, -, hsum⟩ := hpay hst
      exact hsum
    · obtain ⟨-, -, hsum⟩ := hchk hst
      exact hsum
  have hbounds : s.widx ≤ s.len ∧ s.len ≤ s.cfg.maxPayload := by
    cases hst : s.st with
    | waitSync1 | waitSync2 | readLength =>
      obtain ⟨hlen, hwidx, -⟩ := hclr (by simp [hst])
      omega
    | readPayload =>
      obtain ⟨-, hmax, hlt, -⟩ := hpay hst
      omega
    | readChecksum =>
      obtain ⟨hmax, heq, -⟩ := hchk hst
      omega
  refine ⟨hbounds.1, hbounds.2, fun hst => ?_⟩
  obtain ⟨bs, hbs, hcsum⟩ := (sumInv_iff s).1 (hsum hst)
  exact ⟨bs, firstBytes_length hbs, memRead_of_firstBytes hbs, by rw [← hcsum, checksumOf, BitVec.toNat_ofNat]⟩

end Sys2Proof.Proofs

/-! SUPPORT. The staleness test as integer arithmetic, a feed of a cleared decoder, and the pulse on `frame_valid`. -/

namespace Sys2Proof.Machine

variable {s t u : State} {b : Byte} {k : Nat}

/-- The gap of R141 is the difference of the two times modulo 2^TS_W, on integers (R44). -/
theorem timeGap_eq_emod (hl : s.lastTs < 2 ^ s.cfg.tsW) (hk : k < 2 ^ s.cfg.tsW) :
    (timeGap s k : Int) = ((k : Int) - (s.lastTs : Int)) % (2 : Int) ^ s.cfg.tsW := by
  have hle : s.lastTs ≤ k + 2 ^ s.cfg.tsW := by omega
  have hsub : ((k + 2 ^ s.cfg.tsW - s.lastTs : Nat) : Int) = (k - s.lastTs) + 2 ^ s.cfg.tsW := by
    push_cast [Nat.cast_sub hle]
    ring
  rw [timeGap, timeOperand_eq hk, Int.natCast_mod, hsub]
  simp

/-- Clearing a cleared decoder changes nothing. -/
theorem decoderClear_of_cleared (hst : s.st = .waitSync1) (hlen : s.len = 0) (hwidx : s.widx = 0) (hsum : s.csum = 0#8) :
    decoderClear s = s := by
  cases s
  cases hst
  cases hlen
  cases hwidx
  cases hsum
  rfl

/-- In a cleared decoder the staleness test decides nothing: what a feed does first is the stamp alone. -/
theorem beforeDispatch_of_cleared (k : Nat) (hst : s.st = .waitSync1) (hlen : s.len = 0) (hwidx : s.widx = 0)
    (hsum : s.csum = 0#8) : beforeDispatch k s = stampTime k s := by
  rw [beforeDispatch, decoderClear_of_cleared hst hlen hwidx hsum, ite_self]

/-! ## The pulse on frame_valid -/

theorem selected_eq_chkOk_iff (s : State) (b : Byte) : selected s b = .chkOk ↔ s.st = .readChecksum ∧ b = s.csum := by
  cases hst : s.st with
  | readChecksum => simp [selected, selectTransition, hst, condsOf, csMatch]
  | _ =>
    simp only [selected, selectTransition, hst, reduceCtorEq, false_and, iff_false]
    split_ifs <;> simp

/-- Only CHK_OK raises `frame_valid`, and no transition lowers it. -/
theorem runTransition_frameValid {x : Transition} (h : runTransition x b s = .next t) :
    t.frameValid = true ↔ s.frameValid = true ∨ x = .chkOk := by
  cases x with
  | payMore =>
    obtain ⟨-, rfl⟩ := storePayload_cases h
    simp
  | payLast =>
    obtain ⟨u, hu, rfl⟩ := execPayLast_cases h
    obtain ⟨-, rfl⟩ := storePayload_cases hu
    simp
  | chkOk =>
    obtain ⟨u, hu, rfl⟩ := execChkOk_cases (b := b) h
    obtain ⟨-, bs, -, rfl⟩ := emit_cases hu
    simp
  | _ =>
    cases h
    simp [recover]

/-- A feed raises `frame_valid` exactly when its byte is not stale and matches the checksum in READ_CHECKSUM (R163). -/
theorem feed_frameValid (hs : s.frameValid = false) (h : feed b k s = .next t) :
    t.frameValid = true ↔ stale s k = false ∧ s.st = .readChecksum ∧ b = s.csum := by
  rw [feed_eq_dispatch] at h
  rw [runTransition_frameValid h, selected_eq_chkOk_iff]
  cases hst : stale s k <;>
    simp [beforeDispatch, hst, hs]

/-- CONSUME raises `frame_valid` exactly when the byte at `tail` is not stale and is the checksum that READ_CHECKSUM awaits (R202). -/
theorem execConsume_frameValid (h : execConsume k s = .next t) :
    t.frameValid = true ↔
      rdEmpty s = false ∧ stale s k = false ∧ s.st = .readChecksum ∧ memRead s.fifoMem s.tail = some s.csum := by
  rcases execConsume_cases h with ⟨he, rfl⟩ | ⟨v, he, -, hv, hfeed⟩
  · simp [he]
  · rw [feed_frameValid rfl hfeed, he, hv, Option.some_inj]
    exact (and_iff_right rfl).symm

/-! ## What CONSUME and the records of a feed leave -/

/-- What CONSUME leaves of the FIFO and the top level: all but `tail` and the record of POP results (R49). -/
theorem execConsume_frame (h : execConsume k s = .next t) :
    t.cfg = s.cfg ∧ t.fifoMem = s.fifoMem ∧ t.head = s.head ∧ t.headSeen = s.headSeen ∧ t.tailSeen = s.tailSeen ∧
      t.halted = s.halted ∧ t.submissions = s.submissions ∧ t.agenda = s.agenda := by
  rcases execConsume_cases h with ⟨-, rfl⟩ | ⟨v, -, -, -, hfeed⟩
  · simp
  · have hf := feed_sameOutsideDecoder hfeed
    exact ⟨hf.cfg, hf.fifoMem, hf.head, hf.headSeen, hf.tailSeen, hf.halted, hf.submissions, hf.agenda⟩

end Sys2Proof.Machine

/-! PROOFS. The obligations on the time, the pulse, reset and the one writer of each register. -/

namespace Sys2Proof.Proofs

open Sys2Proof.Machine

/-- Settles O25: the gap computed with the borrow discarded is the integer difference modulo 2^TS_W. -/
theorem staleIsTheModularGapAboveTheTimeout : Obligations.StaleIsTheModularGapAboveTheTimeout := by
  intro s t hl ht
  rw [stale_iff, ← timeGap_eq_emod hl ht, gt_iff_lt, Nat.cast_lt]

/-- Settles O36: a stale byte only clears what is clear already, and the stamp overwrites `last_ts` before the dispatch. -/
theorem firstFeedDoesNotDependOnLastTs : Obligations.FirstFeedDoesNotDependOnLastTs := by
  intro s b t x hst hlen hwidx hsum
  have hother : beforeDispatch t { s with lastTs := x } = stampTime t s := beforeDispatch_of_cleared t hst hlen hwidx hsum
  rw [feed_eq_dispatch, feed_eq_dispatch, hother, beforeDispatch_of_cleared t hst hlen hwidx hsum]

/-- Settles O44: RESET writes the whole state after reset. -/
theorem resetGivesEveryRegisterItsValue : Obligations.ResetGivesEveryRegisterItsValue :=
  fun s => ⟨State.resetWith s.cfg s.agenda, rfl, rfl, rfl, rfl, rfl, rfl, rfl, rfl, rfl, rfl, rfl, rfl, rfl⟩

/-- Settles O45: the arrays and records of the state after reset are empty lists. -/
theorem resetForgetsArraysAndTraces : Obligations.ResetForgetsArraysAndTraces :=
  fun s => ⟨State.resetWith s.cfg s.agenda, rfl, fun _ => ⟨rfl, rfl, rfl⟩, rfl, rfl, rfl, rfl, rfl⟩

/-- Settles O47: of the operations a read edge can select, all but CONSUME lower `frame_valid`; write edges and synchronisers leave it. -/
theorem frameValidFollowsExactlyTheChecksumHits : Obligations.FrameValidFollowsExactlyTheChecksumHits := by
  refine ⟨fun s u stopReq t rest ha h => ?_, fun s u valid b v k rest ha h => ?_⟩
  · rw [step_of_fetch_ok ha (fetch_rd s stopReq t)] at h
    split_ifs at h with hh hq he
    · cases h
      simp [hh]
    · cases h
      simp [hq]
    · cases h
      simp [he]
    · rw [execConsume_frameValid h]
      simp only [Bool.not_eq_true] at hh hq
      simp only [hh, hq, true_and]
      rfl
  · rcases ha with ha | ha
    · rw [step_of_fetch_ok ha (fetch_wr s valid b)] at h
      split_ifs at h
      · rcases pushByte_cases h with ⟨-, rfl⟩ | ⟨-, -, rfl⟩ <;> rfl
      · cases h
        rfl
    · cases v with
      | head =>
        rw [step_of_fetch_ok ha (fetch_sync_head s k)] at h
        obtain ⟨-, rfl⟩ := execSyncHead_cases h
        rfl
      | tail =>
        rw [step_of_fetch_ok ha (fetch_sync_tail s k)] at h
        obtain ⟨-, rfl⟩ := execSyncTail_cases h
        rfl

/-- Settles O50: each operation's next state is its register updates written out, and no update writes a register that is another
operation's; CONSUME writes the decoder and the outputs by its feed, which leaves the rest. -/
theorem eachRegisterHasItsOneWriter : Obligations.EachRegisterHasItsOneWriter := by
  intro i s t h hreset
  cases i with
  | push v => rcases pushByte_cases h with ⟨-, rfl⟩ | ⟨-, -, rfl⟩ <;> simp
  | pop =>
    obtain ⟨r, hp⟩ := execPop_cases h
    rcases popByte_cases hp with ⟨-, -, rfl⟩ | ⟨v, -, -, -, -, rfl⟩ <;> simp
  | syncHead k =>
    obtain ⟨-, rfl⟩ := execSyncHead_cases h
    simp
  | syncTail k =>
    obtain ⟨-, rfl⟩ := execSyncTail_cases h
    simp
  | consume k =>
    obtain ⟨hcfg, hmem, hhead, hheadSeen, htailSeen, hhalted, hsub, hagenda⟩ := execConsume_frame h
    simp [hcfg, hmem, hhead, hheadSeen, htailSeen, hhalted, hsub, hagenda]
  | payMore v =>
    obtain ⟨-, rfl⟩ := storePayload_cases h
    simp
  | payLast v =>
    obtain ⟨u, hu, rfl⟩ := execPayLast_cases h
    obtain ⟨-, rfl⟩ := storePayload_cases hu
    simp
  | chkOk v =>
    obtain ⟨u, hu, rfl⟩ := execChkOk_cases (b := v) h
    obtain ⟨-, bs, -, rfl⟩ := emit_cases hu
    simp
  | reset => exact absurd rfl hreset
  | _ =>
    cases h
    simp [recover]

end Sys2Proof.Proofs

/-! SUPPORT. The bytes on the payload bus (R65), and where the operations stop: an index outside its array, or a byte that holds no
value (R60, 93 U4). -/

namespace Sys2Proof.Machine

variable {s : State} {b : Byte}

/-! ## The payload bus -/

/-- `n` bytes fill no more than the low 8n bits of the bus. -/
theorem busValue_lt (bs : List Byte) : busValue bs < 2 ^ (8 * bs.length) := by
  induction bs with
  | nil => simp [busValue]
  | cons b bs ih =>
    have hb := b.isLt
    have hpow : 2 ^ (8 * (b :: bs).length) = 256 * 2 ^ (8 * bs.length) := by
      rw [List.length_cons, Nat.mul_succ, Nat.pow_add, Nat.mul_comm]
    rw [busValue, hpow]
    omega

/-- Dropping the low eight bits of the bus drops its byte 0. -/
theorem busValue_cons_shiftRight (b : Byte) (bs : List Byte) : busValue (b :: bs) >>> 8 = busValue bs := by
  have hb := b.isLt
  rw [busValue, Nat.shiftRight_eq_div_pow]
  omega

/-- The low eight bits of the bus are its byte 0. -/
theorem ofNat_busValue_cons (b : Byte) (bs : List Byte) : BitVec.ofNat 8 (busValue (b :: bs)) = b := by
  have hb := b.isLt
  apply BitVec.eq_of_toNat_eq
  rw [BitVec.toNat_ofNat, busValue]
  omega

/-- Byte i of the list is at bits 8i to 8i+7 of the bus. -/
theorem ofNat_busValue_shiftRight (bs : List Byte) (i : Nat) (hi : i < bs.length) :
    BitVec.ofNat 8 (busValue bs >>> (8 * i)) = bs[i] := by
  induction bs generalizing i with
  | nil => simp at hi
  | cons b bs ih =>
    cases i with
    | zero => exact ofNat_busValue_cons b bs
    | succ i =>
      rw [Nat.mul_succ, Nat.add_comm, Nat.shiftRight_add, busValue_cons_shiftRight, List.getElem_cons_succ]
      exact ih i (by simpa using hi)

theorem payloadBits_eq_some {n v : Nat} :
    payloadBits s n = some v ↔ ∃ bs, firstBytes s.framePayload n = some bs ∧ busValue bs = v := by
  unfold payloadBits
  cases firstBytes s.framePayload n <;> simp

/-! ## Where the operations stop -/

theorem slotByte_of_outside {i : Nat} (hi : s.cfg.fifoDepth ≤ i) : slotByte s i = .error (.noSuchByte .fifoMem) :=
  if_neg (by omega)

theorem slotByte_of_unwritten {i : Nat} (hi : i < s.cfg.fifoDepth) (hm : memRead s.fifoMem i = none) :
    slotByte s i = .error (.unwrittenByte .fifoMem) := by
  simp [slotByte, hi, hm]

theorem popByte_error {e : Fault} (he : rdEmpty s = false) (hslot : slotByte s s.tail = .error e) :
    popByte s = .error e := by
  simp [popByte, he, hslot]

/-- POP and CONSUME stop as their read of the FIFO does. -/
theorem exec_pop_consume_of_slotByte_error {e : Fault} (t : Nat) (he : rdEmpty s = false)
    (hslot : slotByte s s.tail = .error e) : exec .pop s = .fault e ∧ exec (.consume t) s = .fault e := by
  have hpop := popByte_error he hslot
  constructor
  · simp [exec, execPop, hpop]
  · simp [exec, execConsume, hpop]

theorem pushByte_of_outside (hfree : wrFull s = false) (hh : s.cfg.fifoDepth ≤ s.head) :
    pushByte b s = .fault (.noSuchByte .fifoMem) := by
  simp [pushByte, hfree, hh]

theorem storePayload_of_outside (hw : s.cfg.maxPayload ≤ s.widx) : storePayload b s = .fault (.noSuchByte .scratch) := by
  have hstore : storeScratch b s = .fault (.noSuchByte .scratch) := if_neg (by omega)
  rw [storePayload, hstore, andThen_fault]

/-- The first `n` bytes of an array have no value as a whole when one of them has none. -/
theorem firstBytes_eq_none {m : Memory} {n i : Nat} (hi : i < n) (hm : memRead m i = none) : firstBytes m n = none := by
  cases h : firstBytes m n with
  | none => rfl
  | some bs =>
    have hlen := firstBytes_length h
    rw [memRead_of_firstBytes h i (by omega)] at hm
    cases hm

theorem emit_of_outside (hl : s.cfg.maxPayload < s.len) : emit s = .fault (.noSuchByte .scratch) :=
  if_neg (by omega)

theorem emit_of_unwritten {i : Nat} (hl : s.len ≤ s.cfg.maxPayload) (hi : i < s.len) (hm : memRead s.scratch i = none) :
    emit s = .fault (.unwrittenByte .scratch) := by
  simp [emit, hl, firstBytes_eq_none hi hm]

/-- CHK_OK stops as its emit does. -/
theorem execChkOk_of_emit_fault {e : Fault} (h : emit s = .fault e) : execChkOk b s = .fault e := by
  rw [execChkOk, h, andThen_fault]

theorem execPayLast_of_outside (hw : s.cfg.maxPayload ≤ s.widx) : execPayLast b s = .fault (.noSuchByte .scratch) := by
  rw [execPayLast, storePayload_of_outside hw, andThen_fault]

end Sys2Proof.Machine

/-! SUPPORT. What the flags of the FIFO tell, and runs of pushes and of pops (R78, R80, R191). -/

namespace Sys2Proof.Machine

variable {s t : State} {p : Params} {a b : Nat}

/-! ## The flags as distances -/

theorem ringDist_eq_zero_iff (ha : a < p.fifoDepth) (hb : b < p.fifoDepth) : ringDist p a b = 0 ↔ a = b := by
  constructor
  · intro h0
    by_contra hne
    have := ringDist_pos ha hb hne
    omega
  · rintro rfl
    exact ringDist_self a

/-- The index after `b` is `a` exactly when `b` is FIFO_DEPTH − 1 places ahead of `a`. -/
theorem nextIndex_eq_iff_ringDist (ha : a < p.fifoDepth) (hb : b < p.fifoDepth) :
    nextIndex p b = a ↔ ringDist p a b = p.fifoDepth - 1 := by
  rw [nextIndex_eq hb, ringDist_eq ha hb]
  split_ifs <;> omega

/-- `wr_full` = 0 leaves a slot besides those occupied: the producer's view is never ahead of `tail`. -/
theorem occupancy_lt_of_not_wrFull (hr : RingInv s) (hf : wrFull s = false) : occupancy s < s.cfg.fifoDepth - 1 := by
  have hocc := ((ringInv_iff_ringAt s).1 hr).dist_tail_head
  obtain ⟨hh, ht, hhs, hts, hsum, hle⟩ := hr
  have hroom := ringDist_succ_lt hts hh (by simpa [wrFull] using hf)
  rw [occupancy]
  omega

/-- `rd_empty` = 0 means that the slot at `tail` holds the oldest byte that was pushed and not yet popped. -/
theorem contents_eq_cons_of_not_rdEmpty (hr : RingInv s) (hf : FifoInv s) (he : rdEmpty s = false) :
    ∃ v l, contents s = some v :: l ∧ memRead s.fifoMem s.tail = some v := by
  have hc := contents_pop hr (by simpa [rdEmpty] using he)
  have hmem : memRead s.fifoMem s.tail ∈ (acceptedBytes s.submissions).map some := by
    rw [hf, hc]
    simp
  obtain ⟨v, -, hv⟩ := List.mem_map.mp hmem
  exact ⟨v, _, hv ▸ hc, hv.symm⟩

/-- Behind an empty channel no view of `head` can lag: it lies between `tail` and `head`. -/
theorem headSeen_eq_head_of_empty (hr : RingInv s) (h : s.head = s.tail) : s.headSeen = s.head := by
  have hdist := ((ringInv_iff_ringAt s).1 hr).dist_tail_head
  obtain ⟨hh, -, hhs, -⟩ := hr
  rw [h, ringDist_self, ← h] at hdist
  exact (ringDist_eq_zero_iff hhs hh).1 (by omega)

theorem contents_of_empty (h : s.head = s.tail) : contents s = [] := by
  simp [contents, occupancy, h]

theorem occupancy_eq_length_contents (s : State) : occupancy s = (contents s).length := by
  simp [contents]

/-! ## A synchroniser's step of the whole distance -/

theorem execSyncHead_whole (hh : s.head < s.cfg.fifoDepth) (hhs : s.headSeen < s.cfg.fifoDepth) :
    execSyncHead (ringDist s.cfg s.headSeen s.head) s = .next (s.withHeadSeen s.head) := by
  rw [execSyncHead, if_pos le_rfl, forward_ringDist hhs hh]

theorem execSyncTail_whole (ht : s.tail < s.cfg.fifoDepth) (hts : s.tailSeen < s.cfg.fifoDepth) :
    execSyncTail (ringDist s.cfg s.tailSeen s.tail) s = .next (s.withTailSeen s.tail) := by
  rw [execSyncTail, if_pos le_rfl, forward_ringDist hts ht]

/-! ## Sequences of operations -/

theorem execAll_append (l l' : List Instr) (s : State) : execAll (l ++ l') s = andThen (execAll l s) (execAll l') := by
  induction l generalizing s with
  | nil => rfl
  | cons i l ih =>
    simp only [List.cons_append, execAll]
    cases exec i s with
    | next u => exact ih u
    | fault e => rfl
    | refused e => rfl

theorem execAll_cons_of_next {i : Instr} {l : List Instr} (h : exec i s = .next t) : execAll (i :: l) s = execAll l t := by
  rw [execAll, h, andThen_next]

/-- The state after an accepted PUSH (R181). -/
def pushed (v : Byte) (s : State) : State :=
  (s.withFifo (memWrite s.fifoMem s.head v) (nextIndex s.cfg s.head)).withAnswer v .accepted

theorem exec_push_of_free {v : Byte} (hh : s.head < s.cfg.fifoDepth) (hfree : nextIndex s.cfg s.head ≠ s.tailSeen) :
    exec (.push v) s = .next (pushed v s) := by
  simp [exec, execPush, pushByte, wrFull, hfree, hh, pushed]

/-- Pushes that fit into the slots which the producer sees free are all accepted: the ring holds their bytes after those it held,
and nothing of the consumer's side changes (R181). -/
theorem execAll_push {bytes : List Byte} (hr : RingInv s)
    (hfit : ringDist s.cfg s.tailSeen s.head + bytes.length < s.cfg.fifoDepth) :
    ∃ t, execAll (bytes.map .push) s = .next t ∧ RingInv t ∧ contents t = contents s ++ bytes.map some ∧
      t.head = forward s.cfg s.head bytes.length ∧ t.cfg = s.cfg ∧ t.tail = s.tail ∧ t.headSeen = s.headSeen ∧
      t.tailSeen = s.tailSeen ∧ t.pops = s.pops ∧ t.submissions = s.submissions ++ bytes.map (⟨·, .accepted⟩) := by
  induction bytes generalizing s with
  | nil =>
    have ⟨hh, _⟩ := hr
    exact ⟨s, rfl, hr, by simp, (forward_zero hh).symm, rfl, rfl, rfl, rfl, rfl, by simp⟩
  | cons v bytes ih =>
    have ⟨hh, _, _, hts, _⟩ := hr
    rw [List.length_cons] at hfit
    have hfree : nextIndex s.cfg s.head ≠ s.tailSeen := by
      rw [Ne, nextIndex_eq_iff_ringDist hts hh]
      omega
    have hexec := exec_push_of_free (v := v) hh hfree
    have hdist : ringDist s.cfg s.tailSeen (nextIndex s.cfg s.head) = ringDist s.cfg s.tailSeen s.head + 1 :=
      ringDist_forward_right hts hh (by omega)
    have hfit' : ringDist s.cfg s.tailSeen (nextIndex s.cfg s.head) + bytes.length < s.cfg.fifoDepth := by omega
    obtain ⟨t, hall, hring, hcont, hhead, hcfg, htail, hheadSeen, htailSeen, hpops, hsub⟩ :=
      ih (s := pushed v s) (ringInv_push hr hexec) hfit'
    refine ⟨t, (execAll_cons_of_next hexec).trans hall, hring, ?_, ?_, hcfg, htail, hheadSeen, htailSeen, hpops, ?_⟩
    · calc contents t = (contents s ++ [some v]) ++ bytes.map some := by
            rw [hcont, ← contents_push hr hfree v]
            rfl
        _ = contents s ++ (v :: bytes).map some := by simp
    · rw [hhead, List.length_cons, Nat.add_comm, ← forward_forward]
      rfl
    · simp [hsub, pushed]

/-- The state after a POP that returns a byte (R183). -/
def popped (v : Byte) (s : State) : State := (s.withTail (nextIndex s.cfg s.tail)).withPopResult (some v)

/-- On a ring that the consumer sees whole and that holds exactly `bytes`, as many pops return them in order and leave it
empty (R183). -/
theorem execAll_pop {bytes : List Byte} (hr : RingInv s) (hseen : s.headSeen = s.head)
    (hcont : contents s = bytes.map some) :
    ∃ t, execAll (List.replicate bytes.length .pop) s = .next t ∧ t.pops = s.pops ++ bytes.map some ∧
      contents t = [] ∧ t.tail = forward s.cfg s.tail bytes.length ∧ rdEmpty t = true := by
  induction bytes generalizing s with
  | nil =>
    have ⟨hh, ht, _⟩ := hr
    have hocc : occupancy s = 0 := by rw [occupancy_eq_length_contents, hcont]; rfl
    have heq : s.tail = s.head := (ringDist_eq_zero_iff ht hh).1 hocc
    exact ⟨s, rfl, by simp, hcont, (forward_zero ht).symm, by rw [rdEmpty_iff, hseen, heq]⟩
  | cons v bytes ih =>
    have ⟨_, ht, _⟩ := hr
    have hne : s.tail ≠ s.headSeen := by
      intro heq
      rw [contents_of_empty (by rw [heq, hseen])] at hcont
      cases hcont
    have hc := contents_pop hr hne
    rw [hcont, List.map_cons, List.cons.injEq] at hc
    obtain ⟨hv, hrest⟩ := hc
    have hpop := popByte_some (by simpa [rdEmpty] using hne) ht hv.symm
    have hexec : exec .pop s = .next (popped v s) := by
      simp [exec, execPop, hpop, popped]
    have hring : RingInv (popped v s) := ringInv_pop hr hpop
    obtain ⟨t, hall, hpops, hnil, htail, hempty⟩ := ih hring hseen hrest.symm
    refine ⟨t, (execAll_cons_of_next hexec).trans hall, ?_, hnil, ?_, hempty⟩
    · simp [hpops, popped]
    · rw [htail, List.length_cons, Nat.add_comm, ← forward_forward]
      rfl

end Sys2Proof.Machine

/-! SUPPORT. Runs with fair synchronisers: a view that has caught up with an index at rest stays so (R79). -/

namespace Sys2Proof.Machine

variable {s t : State} {v : View} {moves : Nat → Event} {r : Nat → State}

/-- The view itself, beside the index that it follows, `viewedIndex` (R27, R28). -/
def seenIndex (s : State) : View → Nat
  | .head => s.headSeen
  | .tail => s.tailSeen

@[simp] theorem seenIndex_withAgenda (s : State) (l : List Event) (v : View) :
    seenIndex (s.withAgenda l) v = seenIndex s v := by
  cases v <;> rfl

@[simp] theorem viewedIndex_withAgenda (s : State) (l : List Event) (v : View) :
    viewedIndex (s.withAgenda l) v = viewedIndex s v := by
  cases v <;> rfl

@[simp] theorem viewDistance_withAgenda (s : State) (l : List Event) (v : View) :
    viewDistance (s.withAgenda l) v = viewDistance s v := by
  cases v <;> rfl

theorem seenIndex_lt (hr : RingInv s) (v : View) : seenIndex s v < s.cfg.fifoDepth := by
  obtain ⟨-, -, hhs, hts, -⟩ := hr
  cases v with
  | head => exact hhs
  | tail => exact hts

theorem viewDistance_eq_zero_iff (hr : RingInv s) : viewDistance s v = 0 ↔ seenIndex s v = viewedIndex s v := by
  obtain ⟨hh, ht, hhs, hts, -⟩ := hr
  cases v with
  | head => exact ringDist_eq_zero_iff hhs hh
  | tail => exact ringDist_eq_zero_iff hts ht

/-- The synchroniser's step of the whole distance makes the view equal to its index. -/
theorem seenIndex_of_whole_step (hr : RingInv s)
    (h : step (s.withAgenda [.sync v (viewDistance s v)]) = .next t) : seenIndex t v = viewedIndex t v := by
  obtain ⟨hh, ht, hhs, hts, -⟩ := hr
  cases v with
  | head =>
    have hexec := (step_of_fetch_ok rfl (fetch_sync_head _ _)).symm.trans h
    have hwhole := execSyncHead_whole (s := s.withAgenda []) hh hhs
    rw [← Host.Outcome.next.inj (hwhole.symm.trans hexec)]
    rfl
  | tail =>
    have hexec := (step_of_fetch_ok rfl (fetch_sync_tail _ _)).symm.trans h
    have hwhole := execSyncTail_whole (s := s.withAgenda []) ht hts
    rw [← Host.Outcome.next.inj (hwhole.symm.trans hexec)]
    rfl

/-- An operation moves a view forward by at most its distance, or is a reset, which puts the view on its index. -/
theorem exec_seenIndex {i : Instr} (v : View) (h : exec i s = .next t) :
    seenIndex t v = seenIndex s v ∨ seenIndex t v = viewedIndex t v ∨
      ∃ k ≤ viewDistance s v, seenIndex t v = forward s.cfg (seenIndex s v) k := by
  by_cases hreset : i = .reset
  · subst hreset
    cases h
    exact .inr (.inl (by cases v <;> rfl))
  obtain ⟨-, -, hhead, htail, -⟩ := Proofs.eachRegisterHasItsOneWriter i s t h hreset
  cases v with
  | head =>
    by_cases hsame : t.headSeen = s.headSeen
    · exact .inl hsame
    · obtain ⟨k, rfl⟩ := hhead hsame
      obtain ⟨hk, rfl⟩ := execSyncHead_cases h
      exact .inr (.inr ⟨k, hk, rfl⟩)
  | tail =>
    by_cases hsame : t.tailSeen = s.tailSeen
    · exact .inl hsame
    · obtain ⟨k, rfl⟩ := htail hsame
      obtain ⟨hk, rfl⟩ := execSyncTail_cases h
      exact .inr (.inr ⟨k, hk, rfl⟩)

theorem step_cfg (h : step s = .next t) : t.cfg = s.cfg := by
  rcases step_cases h with ⟨-, rfl⟩ | ⟨e, rest, -, ⟨i, -, hi⟩ | ⟨-, rfl⟩⟩
  · rfl
  · by_cases hreset : i = .reset
    · subst hreset
      cases hi
      rfl
    · obtain ⟨-, -, -, -, -, -, -, -, -, -, -, -, -, hcfg, -⟩ := Proofs.eachRegisterHasItsOneWriter i _ t hi hreset
      exact hcfg
  · rfl

theorem step_keeps_ringInv (hd : 2 ≤ s.cfg.fifoDepth) (hr : RingInv s) (h : step s = .next t) : RingInv t := by
  rcases step_cases h with ⟨-, rfl⟩ | ⟨e, rest, -, ⟨i, -, hi⟩ | ⟨-, rfl⟩⟩
  · exact hr
  · exact exec_keeps_ringInv (s := s.withAgenda rest) hd hr hi
  · exact hr

/-- Over a step in which its index rests, a view that has caught up stays so: a synchroniser has no place left to move it. -/
theorem step_keeps_caughtUp (hr : RingInv s) (hc : seenIndex s v = viewedIndex s v) (h : step s = .next t)
    (hstill : viewedIndex t v = viewedIndex s v) : seenIndex t v = viewedIndex t v := by
  rcases step_cases h with ⟨-, rfl⟩ | ⟨e, rest, -, ⟨i, -, hi⟩ | ⟨-, rfl⟩⟩
  · exact hc
  · rcases exec_seenIndex v hi with hsame | hon | ⟨k, hk, hmove⟩
    · rw [hsame, hstill, seenIndex_withAgenda, hc]
    · exact hon
    · have hdist : viewDistance s v = 0 := (viewDistance_eq_zero_iff hr).2 hc
      have hk0 : k = 0 := by simpa [hdist] using hk
      rw [hmove, hk0, seenIndex_withAgenda, State.withAgenda_cfg, forward_zero (seenIndex_lt hr v), hc, hstill]
  · simpa using hc

/-! ## Runs -/

theorem IsRun.keeps_ringInv (hrun : IsRun moves r) (hd : 2 ≤ (r 0).cfg.fifoDepth) (hr : RingInv (r 0)) (n : Nat) :
    2 ≤ (r n).cfg.fifoDepth ∧ RingInv (r n) := by
  induction n with
  | zero => exact ⟨hd, hr⟩
  | succ n ih =>
    obtain ⟨hdn, hrn⟩ := ih
    have hcfg := step_cfg (hrun n)
    exact ⟨by rw [hcfg]; exact hdn, step_keeps_ringInv (s := (r n).withAgenda [moves n]) hdn hrn (hrun n)⟩

/-- From a moment on at which a view has caught up with an index that rests, it is never behind again. -/
theorem IsRun.stays_caughtUp (hrun : IsRun moves r) (hring : ∀ n, RingInv (r n)) {k : Nat}
    (hc : seenIndex (r k) v = viewedIndex (r k) v)
    (hstill : ∀ m, k ≤ m → viewedIndex (r m) v = viewedIndex (r k) v) :
    ∀ m, k ≤ m → seenIndex (r m) v = viewedIndex (r m) v := by
  intro m hm
  induction m, hm using Nat.le_induction with
  | base => exact hc
  | succ m hm ih =>
    have hrest : viewedIndex (r (m + 1)) v = viewedIndex (r m) v := by
      rw [hstill (m + 1) (by omega), hstill m hm]
    exact step_keeps_caughtUp (s := (r m).withAgenda [moves m]) (hring m) (by simpa using ih) (hrun m) (by simpa using hrest)

/-- On a run with a fair synchroniser a view catches up with an index that has come to rest, and stays so (R79). -/
theorem IsRun.catchesUp (hrun : IsRun moves r) (hfair : FairSync v moves r) (hring : ∀ n, RingInv (r n)) {n : Nat}
    (hstill : ∀ m, n ≤ m → viewedIndex (r m) v = viewedIndex (r n) v) :
    ∃ k, n ≤ k ∧ ∀ m, k ≤ m → seenIndex (r m) v = viewedIndex (r m) v := by
  have hreach : ∃ k, n ≤ k ∧ seenIndex (r k) v = viewedIndex (r k) v := by
    obtain ⟨m, hm, hwhole | hzero | hmoved⟩ := hfair n
    · have hstep := hrun m
      rw [hwhole] at hstep
      exact ⟨m + 1, by omega, seenIndex_of_whole_step (hring m) hstep⟩
    · exact ⟨m, hm, (viewDistance_eq_zero_iff (hring m)).1 hzero⟩
    · exact absurd (hstill m hm) hmoved
  obtain ⟨k, hk, hc⟩ := hreach
  exact ⟨k, hk, hrun.stays_caughtUp hring hc fun m hm => by rw [hstill m (by omega), hstill k hk]⟩

/-! ## States in which a view lags -/

/-- Two slots, one byte pushed that the consumer does not see yet. -/
def headUnseen : State :=
  { State.resetWith (Params.openBuild 0 0 0) [] with
    fifoMem := [(0, 0x2A)], head := 1, submissions := [⟨0x2A, .accepted⟩] }

/-- The same, the byte seen and popped, and the producer does not see that yet. -/
def tailUnseen : State :=
  { headUnseen with tail := 1, headSeen := 1, pops := [some 0x2A] }

theorem blockInv_headUnseen : BlockInv headUnseen := by decide

theorem blockInv_tailUnseen : BlockInv tailUnseen := by decide

/-- A run in which no synchroniser ever steps: the producer's port is idle for ever. -/
theorem isRun_headUnseen : IsRun (fun _ => .wr false 0) (fun _ => headUnseen) :=
  fun _ => step_of_fetch_ok rfl (fetch_wr _ false 0)

theorem not_fairSync_headUnseen : ¬ FairSync .head (fun _ => .wr false 0) (fun _ => headUnseen) := by
  intro hfair
  obtain ⟨m, -, hsync | hzero | hmoved⟩ := hfair 0
  · cases hsync
  · have hlag : viewDistance headUnseen .head = 1 := by decide
    rw [hlag] at hzero
    cases hzero
  · exact hmoved rfl

end Sys2Proof.Machine

/-! PROOFS. The obligations on the memory: the FIFO's views and flags, its order, the payload bus, and where the model stops. -/

namespace Sys2Proof.Proofs

open Sys2Proof.Machine

/-- Settles O12: fairness gives one moment at which a view is on its index, and every later step keeps it there; in a run of
idle write edges no synchroniser ever moves. -/
theorem fairRunsLetViewsCatchUp : Obligations.FairRunsLetViewsCatchUp := by
  refine ⟨fun s hh ht hhs hts => ⟨execSyncHead_whole hh hhs, execSyncTail_whole ht hts⟩, ?_, ?_⟩
  · rintro moves r hrun ⟨hhead, htail⟩ hd hr
    have hring (n : Nat) : RingInv (r n) := (hrun.keeps_ringInv hd hr n).2
    exact ⟨fun n hstill => hrun.catchesUp hhead hring hstill, fun n hstill => hrun.catchesUp htail hring hstill⟩
  · exact ⟨_, _, isRun_headUnseen, blockInv_headUnseen, fun ⟨hhead, _⟩ => not_fairSync_headUnseen hhead,
      fun _ => ⟨rfl, by decide⟩⟩

/-- Settles O14: the views only lag, so what they leave free is free and what they show is there; caught up, the flags are the two
ends of the occupancy. -/
theorem flagsErrOnOneSideOnly : Obligations.FlagsErrOnOneSideOnly := by
  refine ⟨⟨tailUnseen, blockInv_tailUnseen, by decide, by decide⟩,
    ⟨headUnseen, blockInv_headUnseen, by decide, by decide⟩, fun s _ hr hf => ?_⟩
  have ⟨hh, ht, _⟩ := hr
  refine ⟨fun hfree => ⟨occupancy_lt_of_not_wrFull hr hfree, fun _ hi => forward_tail_ne_head hh ht hi⟩,
    contents_eq_cons_of_not_rdEmpty hr hf, fun hhead htail => ⟨?_, ?_⟩⟩
  · rw [wrFull_iff, htail, nextIndex_eq_iff_ringDist ht hh, occupancy]
  · rw [rdEmpty_iff, hhead, eq_comm]

/-- Settles O18: the pushes put the bytes into the empty ring, the synchroniser shows them all, and the pops take them out in
order. -/
theorem pushedBytesArePoppedInOrder : Obligations.PushedBytesArePoppedInOrder := by
  rintro s bytes ⟨-, -, hd, -⟩ hr - hempty htailSeen hlen
  have ⟨hh, _⟩ := hr
  have hview : s.headSeen = s.head := headSeen_eq_head_of_empty hr hempty
  obtain ⟨u, hpush, hru, hcont, hhead, hcfg, htail, hheadSeen, -, hpops, -⟩ := execAll_push (bytes := bytes) hr (by
    rw [htailSeen, ← hempty, ringDist_self]
    omega)
  have hdist : ringDist u.cfg u.headSeen u.head = bytes.length := by
    rw [hcfg, hheadSeen, hview, hhead, ringDist_forward_right hh hh (by rw [ringDist_self]; omega), ringDist_self,
      Nat.zero_add]
  have hsync : exec (.syncHead bytes.length) u = .next (u.withHeadSeen u.head) := by
    have ⟨hhu, _, hhsu, _⟩ := hru
    rw [← hdist]
    exact execSyncHead_whole hhu hhsu
  have hseen : contents (u.withHeadSeen u.head) = bytes.map some :=
    hcont.trans (by rw [contents_of_empty hempty, List.nil_append])
  obtain ⟨t, hpop, hpops', hnil, htail', hrd⟩ := execAll_pop (ringInv_syncHead hru hsync) rfl hseen
  refine ⟨t, ?_, ?_, hrd, ?_, ?_⟩
  · rw [List.append_assoc, execAll_append, hpush, andThen_next, List.singleton_append, execAll_cons_of_next hsync, hpop]
  · rw [hpops', State.withHeadSeen_pops, hpops]
  · rw [occupancy_eq_length_contents, hnil, List.length_nil]
  · rw [htail', State.withHeadSeen_tail, State.withHeadSeen_cfg, htail, hcfg, forward]

/-- Settles O51: the bus value is the number whose base-256 digits are the bytes of the copy. -/
theorem payloadByteLiesAtItsBitsOfTheBus : Obligations.PayloadByteLiesAtItsBitsOfTheBus := by
  intro s n v hv
  obtain ⟨bs, hbs, rfl⟩ := payloadBits_eq_some.1 hv
  obtain rfl : bs.length = n := firstBytes_length hbs
  exact ⟨busValue_lt bs, fun i hi => by rw [ofNat_busValue_shiftRight bs i hi, memRead_of_firstBytes hbs i hi]⟩

/-- Settles O58: each operation stops where its access of the array does. -/
theorem modelFaultsOutsideItsArraysAndOnUnwrittenBytes : Obligations.ModelFaultsOutsideItsArraysAndOnUnwrittenBytes :=
  fun _ b t => ⟨fun hfree hh => pushByte_of_outside hfree hh,
    fun he ht => exec_pop_consume_of_slotByte_error t he (slotByte_of_outside ht),
    fun he ht hm => exec_pop_consume_of_slotByte_error t he (slotByte_of_unwritten ht hm),
    fun hw => ⟨storePayload_of_outside hw, execPayLast_of_outside hw⟩,
    fun hl => execChkOk_of_emit_fault (b := b) (emit_of_outside hl),
    fun _ hl hi hm => execChkOk_of_emit_fault (b := b) (emit_of_unwritten hl hi hm)⟩

end Sys2Proof.Proofs

/-! SUPPORT. The decoder on the keys of each format, and format DEC as `st` and `byte`: the facts that tie a key, its row of the
opcode table and its operation together (R97 to R106, R110). -/

namespace Sys2Proof

variable {p : Params} {c : Conds} {d : Drive} {st : ParseState} {b : Byte}

/-! ## Keys and masks -/

/-- A mask of high bits keeps the masked bits of the quotient. -/
theorem and_mul_two_pow (key m n : Nat) : key &&& m * 2 ^ n = (key / 2 ^ n &&& m) * 2 ^ n := by
  have hdiv : (key &&& m * 2 ^ n) / 2 ^ n = key / 2 ^ n &&& m := by
    rw [Nat.and_div_two_pow, Nat.mul_div_cancel _ (Nat.two_pow_pos n)]
  have hmod : (key &&& m * 2 ^ n) % 2 ^ n = 0 := by
    rw [Nat.and_mod_two_pow, Nat.mul_mod_left, Nat.and_zero]
  rw [← hdiv, Nat.div_mul_cancel (Nat.dvd_of_mod_eq_zero hmod)]

theorem ofCode_eq_none_iff (n : Nat) : ParseState.ofCode n = none ↔ 5 ≤ n := by
  unfold ParseState.ofCode
  split <;> simp_all
  omega

theorem ParseState.code_lt (st : ParseState) : st.code < 5 := by cases st <;> decide

theorem ParseState.code_of_ofCode {n : Nat} (h : ParseState.ofCode n = some st) : n = st.code := by
  unfold ParseState.ofCode at h
  split at h <;> cases h
  all_goals rfl

/-- A DEC key with a state code is the code of a state above a byte (R100). -/
theorem exists_decKey {key : Nat} (h : key / 256 < 5) : ∃ (st : ParseState) (b : Byte), key = st.code * 256 + b.toNat := by
  obtain ⟨st, hst⟩ : ∃ st, ParseState.ofCode (key / 256) = some st :=
    Option.ne_none_iff_exists'.1 fun hn => absurd ((ofCode_eq_none_iff _).1 hn) (by omega)
  refine ⟨st, BitVec.ofNat 8 key, ?_⟩
  rw [← ParseState.code_of_ofCode hst, BitVec.toNat_ofNat]
  omega

theorem ofNat_decKey (st : ParseState) (b : Byte) : BitVec.ofNat 8 (st.code * 256 + b.toNat) = b := by
  apply BitVec.eq_of_toNat_eq
  rw [BitVec.toNat_ofNat]
  omega

/-- A DEC key with a state code gives the operation of the transition that the dispatch selects (R100). -/
theorem decode_dec (hf : d.fmt = .dec) (hk : d.key = st.code * 256 + b.toNat) :
    decode p c d = .ok ((selectTransition p c st b).toInstr b) := by
  have hst := st.code_lt
  have hlt : d.key < 2 ^ d.fmt.width := by
    rw [hf, hk]
    show _ < 2048
    omega
  have hcode : (st.code * 256 + b.toNat) / 256 = st.code := by omega
  rw [decode, if_pos hlt]
  simp only [hf, decodeDec, hk, hcode, ofNat_decKey, Machine.ofCode_code]

theorem decode_dec_reserved (hf : d.fmt = .dec) (hk : d.key < 2048) (hcode : 5 ≤ d.key / 256) :
    decode p c d = .error .reservedState := by
  have hlt : d.key < 2 ^ d.fmt.width := by rwa [hf]
  rw [decode, if_pos hlt]
  simp only [hf, decodeDec, (ofCode_eq_none_iff _).2 hcode]

/-- What a key within the width of format DEC can give: a transition's operation, or a reserved state code (R100, R113). -/
theorem decode_dec_cases (hf : d.fmt = .dec) (hk : d.key < 2048) :
    (∃ (st : ParseState) (b : Byte), d.key = st.code * 256 + b.toNat ∧
        decode p c d = .ok ((selectTransition p c st b).toInstr b)) ∨
      5 ≤ d.key / 256 ∧ decode p c d = .error .reservedState := by
  by_cases hcode : d.key / 256 < 5
  · obtain ⟨st, b, hkey⟩ := exists_decKey hcode
    exact .inl ⟨st, b, hkey, decode_dec hf hkey⟩
  · exact .inr ⟨not_lt.1 hcode, decode_dec_reserved hf hk (not_lt.1 hcode)⟩

theorem decode_tooWide (h : 2 ^ d.fmt.width ≤ d.key) : decode p c d = .error .keyTooWide := if_neg (by omega)

/-! ## What a key that decodes can be -/

theorem lt_of_decode_ok {i : Instr} (h : decode p c d = .ok i) : d.key < 2 ^ d.fmt.width := by
  by_contra hk
  cases (decode_tooWide (not_lt.1 hk)).symm.trans h

theorem decode_dec_ok {i : Instr} (hf : d.fmt = .dec) (h : decode p c d = .ok i) :
    ∃ st b, d.key = ParseState.code st * 256 + b.toNat ∧ i = (selectTransition p c st b).toInstr b := by
  have hk : d.key < 2 ^ d.fmt.width := lt_of_decode_ok h
  rw [hf] at hk
  rcases decode_dec_cases (p := p) (c := c) hf hk with ⟨st, b, hkey, hok⟩ | ⟨-, herr⟩
  · cases hok.symm.trans h
    exact ⟨st, b, hkey, rfl⟩
  · cases herr.symm.trans h

/-! ## The rows of format DEC -/

/-- The parse state of a transition's row (R100). -/
def Transition.state : Transition → ParseState
  | .ws1Hit | .ws1Miss => .waitSync1
  | .ws2Hit | .ws2Miss => .waitSync2
  | .lenOver | .lenZero | .lenOk => .readLength
  | .payLast | .payMore => .readPayload
  | .chkOk | .chkBad => .readChecksum

/-- The byte in the key of a transition's row: the row's own where it fixes every bit, else `b` (R100). -/
def Transition.keyByte (x : Transition) (b : Byte) : Byte :=
  match x with
  | .ws1Hit => sync1
  | .ws2Hit => sync2
  | .lenZero => 0
  | _ => b

theorem Transition.keyByte_keyByte (x : Transition) (b : Byte) : x.keyByte (x.keyByte b) = x.keyByte b := by
  cases x <;> rfl

theorem Transition.toInstr_keyByte (x : Transition) (b : Byte) : x.toInstr (x.keyByte b) = x.toInstr b := by
  cases x <;> rfl

theorem Transition.encode_toInstr_fmt (x : Transition) (b : Byte) : (encode (x.toInstr b)).fmt = .dec := by
  cases x <;> rfl

theorem Transition.encode_toInstr_key (x : Transition) (b : Byte) :
    (encode (x.toInstr b)).key = x.state.code * 256 + (x.keyByte b).toNat := by
  cases x <;> simp [toInstr, encode, state, keyByte, ParseState.code]

/-- The row of transition `x` applies in state `st` to byte `b`: its pattern fits, and its operation is well formed and admitted. -/
def Transition.Applies (p : Params) (c : Conds) (st : ParseState) (b : Byte) (x : Transition) : Prop :=
  x.state = st ∧ x.keyByte b = b ∧ wellFormed p (x.toInstr b) = true ∧ c.admits (x.toInstr b) = true

theorem applies_selectTransition (p : Params) (c : Conds) (st : ParseState) (b : Byte) :
    (selectTransition p c st b).Applies p c st b := by
  cases st with
  | waitSync1 | waitSync2 =>
    simp only [selectTransition]
    split_ifs with hb
    · exact ⟨rfl, hb.symm, rfl, rfl⟩
    · exact ⟨rfl, rfl, decide_eq_true hb, rfl⟩
  | readLength =>
    simp only [selectTransition]
    split_ifs with hover hzero
    · exact ⟨rfl, rfl, hover, rfl⟩
    · have hb : b.toNat = (0#8).toNat := of_decide_eq_true hzero
      exact ⟨rfl, (BitVec.eq_of_toNat_eq hb).symm, rfl, rfl⟩
    · rw [lcOver, decide_eq_true_eq] at hover
      rw [lcZero, decide_eq_true_eq] at hzero
      have hlen : 1 ≤ b.toNat ∧ b.toNat ≤ p.maxPayload := by omega
      exact ⟨rfl, rfl, by simpa [Transition.toInstr, wellFormed] using hlen, rfl⟩
  | readPayload | readChecksum =>
    simp only [selectTransition]
    split_ifs with hc
    · exact ⟨rfl, rfl, rfl, hc⟩
    · exact ⟨rfl, rfl, rfl, by simpa [Transition.toInstr, Conds.admits] using hc⟩

theorem selectTransition_of_applies {x : Transition} (h : x.Applies p c st b) : selectTransition p c st b = x := by
  obtain ⟨rfl, hbyte, hwf, hadm⟩ := h
  cases x with
  | ws1Hit | ws2Hit => exact if_pos hbyte.symm
  | ws1Miss | ws2Miss => exact if_neg (of_decide_eq_true hwf)
  | lenOver => exact if_pos hwf
  | lenZero =>
    obtain rfl : 0#8 = b := hbyte
    have hover : ¬ lcOver p 0#8 = true := by simp [lcOver]
    show selectTransition p c .readLength 0#8 = .lenZero
    rw [selectTransition, if_neg hover]
    rfl
  | lenOk =>
    obtain ⟨hpos, hmax⟩ : 1 ≤ b.toNat ∧ b.toNat ≤ p.maxPayload := by simpa [Transition.toInstr, wellFormed] using hwf
    have hover : ¬ lcOver p b = true := by simpa [lcOver]
    have hzero : ¬ lcZero b = true := fun hz => absurd (of_decide_eq_true hz) (by omega)
    exact (if_neg hover).trans (if_neg hzero)
  | payLast | chkOk => exact if_pos hadm
  | payMore | chkBad => exact if_neg (by simpa [Transition.toInstr, Conds.admits] using hadm)

/-- Decoding the key of a transition's row gives its operation back. -/
theorem decode_encode_toInstr {x : Transition} (hwf : wellFormed p (x.toInstr b) = true)
    (hadm : c.admits (x.toInstr b) = true) : decode p c (encode (x.toInstr b)) = .ok (x.toInstr b) := by
  have happ : x.Applies p c x.state (x.keyByte b) :=
    ⟨rfl, x.keyByte_keyByte b, by rwa [x.toInstr_keyByte], by rwa [x.toInstr_keyByte]⟩
  rw [decode_dec (x.encode_toInstr_fmt b) (x.encode_toInstr_key b), selectTransition_of_applies happ, x.toInstr_keyByte]

/-- The key of a state and a byte lies in the row of a transition that applies to them: such a row fixes the state, and the byte too
where its mask is full. -/
theorem decKey_mem_tableRow {x : Transition} (h : x.Applies p c st b) :
    (st.code * 256 + b.toNat) &&& (tableRow (x.toInstr b)).1 = (tableRow (x.toInstr b)).2 := by
  obtain ⟨rfl, hbyte, -, -⟩ := h
  have hstate : (x.state.code * 256 + b.toNat) &&& 7 * 2 ^ 8 = x.state.code * 256 := by
    have hcode : (x.state.code * 256 + b.toNat) / 2 ^ 8 = x.state.code := by omega
    rw [and_mul_two_pow, hcode]
    cases x <;> rfl
  cases x with
  | ws1Hit =>
    obtain rfl : sync1 = b := hbyte
    rfl
  | ws2Hit =>
    obtain rfl : sync2 = b := hbyte
    rfl
  | lenZero =>
    obtain rfl : 0#8 = b := hbyte
    rfl
  | _ => exact hstate

/-! ## The rows of format WR -/

/-- A WR key lies in its row: the row's mask leaves `wr_valid` alone (R97). -/
theorem decodeWr_mem_tableRow {key : Nat} (hk : key < 2 ^ 9) :
    key &&& (tableRow (decodeWr key)).1 = (tableRow (decodeWr key)).2 := by
  have hbit : key &&& 1 * 2 ^ 8 = key / 256 * 256 := by
    rw [and_mul_two_pow, Nat.and_one_is_mod]
    omega
  unfold decodeWr
  split_ifs with h
  · rwa [h] at hbit
  · have hzero : key / 256 = 0 := by omega
    rwa [hzero] at hbit

/-! ## The keys without an operation -/

/-- Which keys the decoder rejects, and why (R101, R105, R113, R166). -/
def Reject.Names (d : Drive) : Reject → Prop
  | .keyTooWide => 2 ^ d.fmt.width ≤ d.key
  | .reservedState => d.fmt = .dec ∧ d.key < 2048 ∧ 5 ≤ d.key / 256
  | .selectsNothing => (d.fmt = .stl ∧ d.key = 0) ∨ (d.fmt = .rst ∧ d.key = 1)

theorem decode_eq_error_of_names {r : Reject} (h : r.Names d) : decode p c d = .error r := by
  obtain ⟨fmt, key, byte, time, places⟩ := d
  cases r with
  | keyTooWide => exact decode_tooWide h
  | reservedState =>
    obtain ⟨hf, hk, hcode⟩ := h
    exact decode_dec_reserved hf hk hcode
  | selectsNothing =>
    rcases h with ⟨hf, hk⟩ | ⟨hf, hk⟩ <;>
    · cases hf
      cases hk
      rfl

theorem names_of_decode_eq_error {r : Reject} (h : decode p c d = .error r) : r.Names d := by
  obtain ⟨fmt, key, byte, time, places⟩ := d
  by_cases hk : key < 2 ^ fmt.width
  · have hfmt := h
    rw [decode, if_pos hk] at hfmt
    cases fmt with
    | wr | rd | con | cs | lc | wd | auto v => cases hfmt
    | dec =>
      rcases decode_dec_cases (p := p) (c := c) (d := ⟨.dec, key, byte, time, places⟩) rfl hk with
        ⟨st, b, -, hok⟩ | ⟨hcode, herr⟩
      · cases hok.symm.trans h
      · cases herr.symm.trans h
        exact ⟨rfl, hk, hcode⟩
    | stl | rst =>
      simp only [Format.width] at hk
      interval_cases key <;> cases hfmt
      simp [Reject.Names]
  · cases (decode_tooWide (not_lt.1 hk)).symm.trans h
    exact not_lt.1 hk

theorem decode_eq_error_iff {r : Reject} : decode p c d = .error r ↔ r.Names d :=
  ⟨names_of_decode_eq_error, decode_eq_error_of_names⟩

end Sys2Proof

namespace Sys2Proof.Machine

/-- A row of the dispatch table that holds of a state and a byte is a row of format DEC that applies to them. -/
theorem applies_of_rowHolds {s : State} {b : Byte} {x : Transition} (h : rowHolds s b x) :
    x.Applies s.cfg (condsOf s b) s.st b := by
  cases x <;> obtain ⟨hst, h⟩ := h
  case ws1Hit | ws2Hit => exact ⟨hst.symm, h.symm, rfl, rfl⟩
  case ws1Miss | ws2Miss | lenOver => exact ⟨hst.symm, rfl, decide_eq_true h, rfl⟩
  case lenZero => exact ⟨hst.symm, (BitVec.eq_of_toNat_eq h).symm, rfl, rfl⟩
  case lenOk => exact ⟨hst.symm, rfl, by simpa [Transition.toInstr, wellFormed] using h, rfl⟩
  case payLast | chkOk => exact ⟨hst.symm, rfl, rfl, decide_eq_true h⟩
  case payMore =>
    have hlast : lcLast s = false := decide_eq_false (by omega)
    exact ⟨hst.symm, rfl, rfl, by simp [Transition.toInstr, Conds.admits, condsOf, hlast]⟩
  case chkBad =>
    have hmatch : csMatch s b = false := decide_eq_false h
    exact ⟨hst.symm, rfl, rfl, by simp [Transition.toInstr, Conds.admits, condsOf, hmatch]⟩

/-- Two rows of the dispatch table never hold together: a row that holds is the selected one, in every state (R153). -/
theorem selected_of_rowHolds {s : State} {b : Byte} {x : Transition} (h : rowHolds s b x) : selected s b = x :=
  selectTransition_of_applies (applies_of_rowHolds h)

end Sys2Proof.Machine

/-! PROOFS. The obligations on the decoder and the encoder. -/

namespace Sys2Proof.Proofs

open Sys2Proof.Machine

/-- Settles O2: an operation of format DEC by its transition's row; the key of any other is decoded by evaluation, but for the
byte of PUSH, where the write move of a reset state has the same key. -/
theorem decodeOfEncodeIsTheOperation : Obligations.DecodeOfEncodeIsTheOperation := by
  intro p c i hwf hadm
  cases i with
  | push b => exact fetch_wr (State.resetWith p []) true b
  | ws1Hit => exact decode_encode_toInstr (x := .ws1Hit) (b := 0) hwf hadm
  | ws1Miss b => exact decode_encode_toInstr (x := .ws1Miss) hwf hadm
  | ws2Hit => exact decode_encode_toInstr (x := .ws2Hit) (b := 0) hwf hadm
  | ws2Miss b => exact decode_encode_toInstr (x := .ws2Miss) hwf hadm
  | lenOver b => exact decode_encode_toInstr (x := .lenOver) hwf hadm
  | lenZero => exact decode_encode_toInstr (x := .lenZero) (b := 0) hwf hadm
  | lenOk b => exact decode_encode_toInstr (x := .lenOk) hwf hadm
  | payLast b => exact decode_encode_toInstr (x := .payLast) hwf hadm
  | payMore b => exact decode_encode_toInstr (x := .payMore) hwf hadm
  | chkOk b => exact decode_encode_toInstr (x := .chkOk) hwf hadm
  | chkBad b => exact decode_encode_toInstr (x := .chkBad) hwf hadm
  | consume t => simp [decode, encode, Format.width, decodeCon]
  | _ => rfl

/-- Settles O3: in format DEC the transition selected is one whose row applies; format WR fixes `wr_valid` alone; the keys of the
other formats have at most three bits. -/
theorem decodedKeyLiesInItsTableRow : Obligations.DecodedKeyLiesInItsTableRow := by
  rintro p c ⟨fmt, key, byte, time, places⟩ i h
  have hk : key < 2 ^ fmt.width := lt_of_decode_ok h
  have hfmt := h
  rw [decode, if_pos hk] at hfmt
  cases fmt with
  | wr =>
    cases hfmt
    exact ⟨decodeWr_mem_tableRow hk, by unfold decodeWr; split_ifs <;> exact ⟨rfl, fun _ _ => rfl⟩⟩
  | dec =>
    obtain ⟨st, b, rfl, rfl⟩ := decode_dec_ok rfl h
    have happ := applies_selectTransition p c st b
    have ⟨_, _, hwf, hadm⟩ := happ
    exact ⟨decKey_mem_tableRow happ, hadm, fun _ _ => hwf⟩
  | rd | con | cs | lc | wd =>
    cases hfmt
    simp only [Format.width] at hk
    interval_cases key <;>
      simp +contextual [tableRow, Conds.admits, wellFormed, decodeRd, decodeCon, decodeCs, decodeLc, decodeWd]
  | stl | rst =>
    simp only [Format.width] at hk
    interval_cases key <;> cases hfmt
    exact ⟨by simp [tableRow], rfl, fun _ _ => rfl⟩
  | auto v =>
    cases hfmt
    cases v <;> exact ⟨Nat.and_zero _, rfl, fun _ hp => decide_eq_true hp⟩

/-- Settles O4: each reason names exactly the keys rejected for it. -/
theorem keysWithoutOperationAreExactlyTheNamedOnes : Obligations.KeysWithoutOperationAreExactlyTheNamedOnes :=
  fun _ _ _ => ⟨decode_eq_error_iff, decode_eq_error_iff, decode_eq_error_iff⟩

/-- Settles O5: the selected row holds by the invariant, and no other row holds beside it. -/
theorem dispatchSelectsTheOneRowThatHolds : Obligations.DispatchSelectsTheOneRowThatHolds :=
  fun s b hd => ⟨fun _ => ⟨fun h => (selected_of_rowHolds h).symm, fun h => h ▸ rowHolds_selected hd b⟩, fetch_dec s b⟩

/-- Settles O1: by evaluation; the two length bytes, whose row depends on MAX_PAYLOAD, are encodings. -/
theorem writtenOutKeysDecodeToTheirOperations : Obligations.WrittenOutKeysDecodeToTheirOperations := by
  intro p c
  refine ⟨rfl, rfl, rfl, rfl, rfl, rfl, rfl, rfl, fun hmax => ?_, fun hmax => ?_, rfl, rfl, rfl, rfl, rfl, rfl⟩
  · exact decodeOfEncodeIsTheOperation p c (.lenOver 0x21) (decide_eq_true hmax) rfl
  · exact decodeOfEncodeIsTheOperation p c (.lenOk 0x05) (decide_eq_true hmax) rfl

end Sys2Proof.Proofs

/-! SUPPORT. The running sum of a sequence of CS_ADD (R120), and what LC_INC writes (R131). -/

namespace Sys2Proof.Machine

variable {s : State} {bytes other : List Byte}

/-- A byte taken off the front of the list goes into the start value; the carry out of its eight bits makes no difference (R120). -/
theorem checksumOf_toNat_add (v b : Byte) (bytes : List Byte) :
    checksumOf (v + b).toNat bytes = checksumOf v.toNat (b :: bytes) :=
  BitVec.eq_of_toNat_eq (by simp [checksumOf, Nat.add_assoc])

theorem checksumOf_perm (n : Nat) (h : bytes.Perm other) : checksumOf n bytes = checksumOf n other := by
  rw [checksumOf, checksumOf, (h.map BitVec.toNat).sum_eq]

/-- A sequence of CS_ADD writes `csum` alone: the checksum of the bytes, from the old value on (R120, R124). -/
theorem execAll_csAdd (bytes : List Byte) (s : State) :
    execAll (bytes.map .csAdd) s = .next (s.withCsum (checksumOf s.csum.toNat bytes)) := by
  induction bytes generalizing s with
  | nil => simp [execAll, checksumOf_nil, State.withCsum]
  | cons b bytes ih =>
    have hexec : exec (.csAdd b) s = .next (s.withCsum (s.csum + b)) := rfl
    rw [List.map_cons, execAll_cons_of_next hexec, ih, State.withCsum_csum, checksumOf_toNat_add]
    rfl

/-- LC_INC writes `widx` alone; what `nextWidx` gives is for the caller to say (R131). -/
theorem exec_lcInc {w : Nat} (h : nextWidx s.cfg s.widx = w) : exec .lcInc s = .next (s.withLength s.len w) := by
  rw [← h]
  rfl

end Sys2Proof.Machine

/-! PROOFS. The obligations on the checksum accumulator and the frame length counter. -/

namespace Sys2Proof.Proofs

open Sys2Proof.Machine

/-- Settles O20: a sequence of CS_ADD leaves the checksum of its bytes, and a permutation of the bytes has the same checksum. -/
theorem checksumIsTheWideSumModulo256InAnyOrder : Obligations.ChecksumIsTheWideSumModulo256InAnyOrder := by
  intro bytes other s
  refine ⟨⟨_, execAll_csAdd bytes s, BitVec.toNat_ofNat _ _⟩, fun hperm => ?_⟩
  rw [execAll_csAdd, execAll_csAdd, checksumOf_perm _ hperm]

/-- Settles O19: by evaluation; the sum of two bytes is the sum of their numbers modulo 256. -/
theorem checksumCommandsHoldClearSeedAdd : Obligations.ChecksumCommandsHoldClearSeedAdd := by
  intro p c b t k s
  have hsum : s.csum + b = BitVec.ofNat 8 ((s.csum.toNat + b.toNat) % 256) :=
    BitVec.eq_of_toNat_eq (by simp)
  exact ⟨⟨rfl, rfl⟩, ⟨rfl, rfl⟩, ⟨rfl, rfl⟩, rfl, by rw [← hsum]; rfl⟩

/-- Settles O21: by evaluation; a length of at most MAX_PAYLOAD loses nothing in LEN_W bits, and a write index below it counts up by one. -/
theorem lengthCommandsHoldClearLoadIncrement : Obligations.LengthCommandsHoldClearLoadIncrement := by
  intro p c b t k s
  refine ⟨⟨rfl, rfl⟩, ⟨rfl, rfl⟩, ⟨rfl, rfl, fun hb => ?_⟩, rfl, fun hw hlen => ?_⟩
  · rw [← lengthOperand_eq hb]
    rfl
  · exact ⟨exec_lcInc (nextWidx_eq (hw.trans_le hlen)), hw, by simp [lcLast]⟩

/-- Settles O22: beyond the LEN_W bits, the free value is what `nextWidx` gives, which has LEN_W bits in any case. -/
theorem lengthIncrementCountsWithinItsRegister : Obligations.LengthIncrementCountsWithinItsRegister :=
  fun s => ⟨fun hfits => exec_lcInc (if_pos hfits), fun _ => ⟨_, nextWidx_lt s.cfg s.widx, exec_lcInc rfl⟩⟩

end Sys2Proof.Proofs

/-! SUPPORT. The staleness test on true ticks, the dispatch in WAIT_SYNC1, and what a wired move other than a consuming read edge
leaves (R142, R154, R155, R49). -/

namespace Sys2Proof.Machine

variable {s t : State} {b : Byte} {k g : Nat}

/-! ## The staleness test -/

theorem timeGap_lt (s : State) (k : Nat) : timeGap s k < 2 ^ s.cfg.tsW := Nat.mod_lt _ (Nat.two_pow_pos _)

/-- On a counter that wraps modulo 2^TS_W, the gap measured `g` ticks after the stamp is g mod 2^TS_W (R142). -/
theorem timeGap_after_ticks (hl : s.lastTs < 2 ^ s.cfg.tsW) (g : Nat) :
    timeGap s ((s.lastTs + g) % 2 ^ s.cfg.tsW) = g % 2 ^ s.cfg.tsW := by
  rw [timeGap, timeOperand, Nat.mod_mod, Nat.add_sub_assoc hl.le, Nat.mod_add_mod,
    show s.lastTs + g + (2 ^ s.cfg.tsW - s.lastTs) = g + 2 ^ s.cfg.tsW by omega, Nat.add_mod_right]

/-- The wrapped gap decides the test, so a gap of 2^TS_W ticks or more can be missed (R142). -/
theorem stale_after_ticks (hl : s.lastTs < 2 ^ s.cfg.tsW) (g : Nat) :
    stale s ((s.lastTs + g) % 2 ^ s.cfg.tsW) = true ↔ s.cfg.timeout < g % 2 ^ s.cfg.tsW := by
  rw [stale_iff, timeGap_after_ticks hl]

/-- While the counter has not lapped, the test is on the true ticks (R142). -/
theorem stale_after_ticks_of_lt (hl : s.lastTs < 2 ^ s.cfg.tsW) (hg : g < 2 ^ s.cfg.tsW) :
    stale s ((s.lastTs + g) % 2 ^ s.cfg.tsW) = true ↔ s.cfg.timeout < g := by
  rw [stale_after_ticks hl, Nat.mod_eq_of_lt hg]

/-! ## The dispatch of a stale byte -/

/-- In WAIT_SYNC1 a byte moves the parse state alone, and only SYNC1 moves it (R154, R155). -/
theorem dispatch_of_waitSync1 (hst : s.st = .waitSync1) (b : Byte) :
    dispatch b s = .next (s.withSt (if b = sync1 then .waitSync2 else .waitSync1)) := by
  have hkeep : s = s.withSt .waitSync1 := by rw [← hst, State.withSt]
  rw [dispatch, selected, hst, selectTransition]
  split_ifs
  · rfl
  · exact congrArg Host.Outcome.next hkeep

theorem beforeDispatch_of_stale (h : stale s k = true) : beforeDispatch k s = stampTime k (decoderClear s) := by
  rw [beforeDispatch, if_pos h]

/-! ## The consumer side of the wired block -/

/-- The second state has the `tail`, the record of POP results, the decoder and the frame registers of the first: what CONSUME and
RESET alone may write in the wired block (R49). -/
structure SameConsumerSide (s t : State) : Prop where
  tail : t.tail = s.tail := by rfl
  pops : t.pops = s.pops := by rfl
  st : t.st = s.st := by rfl
  len : t.len = s.len := by rfl
  widx : t.widx = s.widx := by rfl
  csum : t.csum = s.csum := by rfl
  scratch : t.scratch = s.scratch := by rfl
  lastTs : t.lastTs = s.lastTs := by rfl
  framesOut : t.framesOut = s.framesOut := by rfl
  frameLen : t.frameLen = s.frameLen := by rfl
  framePayload : t.framePayload = s.framePayload := by rfl

/-- A move of the wired block, a reset aside, leaves the consumer side unless it is a read edge that selects CONSUME (R99). -/
theorem step_sameConsumerSide_or_consumes {e : Event} {rest : List Event} (ha : s.agenda = e :: rest) (hw : e.wired = true)
    (hne : e ≠ .rst false) (h : step s = .next t) :
    SameConsumerSide s t ∨ (∃ k, e = .rd false k) ∧ s.halted = false ∧ rdEmpty s = false := by
  cases e with
  | wr v d =>
    rw [step_of_fetch_ok ha (fetch_wr s v d)] at h
    split_ifs at h
    · rcases pushByte_cases h with ⟨-, rfl⟩ | ⟨-, -, rfl⟩ <;> exact .inl {}
    · cases h
      exact .inl {}
  | rd q k =>
    rw [step_of_fetch_ok ha (fetch_rd s q k)] at h
    split_ifs at h with hhalted hstop hempty
    · cases h
      exact .inl {}
    · cases h
      exact .inl {}
    · cases h
      exact .inl {}
    · exact .inr ⟨⟨k, by rw [Bool.eq_false_of_not_eq_true hstop]⟩, Bool.eq_false_of_not_eq_true hhalted,
        Bool.eq_false_of_not_eq_true hempty⟩
  | sync v k =>
    cases v with
    | head =>
      rw [step_of_fetch_ok ha (fetch_sync_head s k)] at h
      obtain ⟨-, rfl⟩ := execSyncHead_cases h
      exact .inl {}
    | tail =>
      rw [step_of_fetch_ok ha (fetch_sync_tail s k)] at h
      obtain ⟨-, rfl⟩ := execSyncTail_cases h
      exact .inl {}
  | rst r =>
    cases r with
    | false => exact absurd rfl hne
    | true =>
      rw [step_of_fetch_error ha (fetch_rst s true)] at h
      cases h
      exact .inl {}
  | _ => cases hw

end Sys2Proof.Machine

/-! PROOFS. The obligations on the timeout watchdog. -/

namespace Sys2Proof.Proofs

open Sys2Proof.Machine

/-- Settles O26: the test sees the ticks modulo 2^TS_W, never more than 2^TS_W − 1; `d` ticks backward are 2^TS_W − d forward. -/
theorem stalenessLawForTrueGaps : Obligations.StalenessLawForTrueGaps := by
  intro s _ hl
  refine ⟨stale_after_ticks hl, fun g hg => stale_after_ticks_of_lt hl hg, fun hmax t => ?_, fun d hpos hd => ?_⟩
  · have hgap := timeGap_lt s t
    exact decide_eq_false (by omega)
  · rw [Nat.add_sub_assoc hd.le]
    exact stale_after_ticks_of_lt hl (by omega)

/-- Settles O35: a stale feed clears and stamps, so its byte is dispatched in WAIT_SYNC1. -/
theorem staleByteIsJudgedFromAClearedDecoder : Obligations.StaleByteIsJudgedFromAClearedDecoder := by
  intro s b t hstale
  rw [feed_eq_dispatch, beforeDispatch_of_stale hstale, dispatch_of_waitSync1 rfl]
  rfl

/-- Settles O49: every other move leaves the decoder and the frame registers. -/
theorem decoderChangesOnlyWhenAByteIsConsumed : Obligations.DecoderChangesOnlyWhenAByteIsConsumed := by
  intro s u e rest ha hw hne h hchange
  rcases step_sameConsumerSide_or_consumes ha hw hne h with hsame | hconsumes
  · simp [hsame.st, hsame.len, hsame.widx, hsame.csum, hsame.scratch, hsame.lastTs, hsame.framesOut, hsame.frameLen,
      hsame.framePayload] at hchange
  · exact hconsumes

/-- Settles O24: by evaluation; a time that fits in TS_W bits is stamped whole. -/
theorem watchdogCommandsStampAndHold : Obligations.WatchdogCommandsStampAndHold := by
  intro p c b t k s
  refine ⟨⟨rfl, rfl, fun ht => ?_⟩, rfl, rfl⟩
  have hstamp : exec (.wdStamp t) s = .next (s.withLastTs (timeOperand s.cfg t)) := rfl
  rw [hstamp, timeOperand_eq ht]
  rfl

end Sys2Proof.Proofs

/-! SUPPORT. Which transition the dispatch selects in each parse state, and what the operations of the decoder give where they
complete (R153 to R164). -/

namespace Sys2Proof.Machine

variable {s t : State} {b : Byte} {k : Nat}

/-! ## The transition selected, by parse state -/

theorem selected_of_waitSync1 (hst : s.st = .waitSync1) (b : Byte) :
    selected s b = if b = sync1 then .ws1Hit else .ws1Miss := by
  rw [selected, hst, selectTransition]

theorem selected_of_waitSync2 (hst : s.st = .waitSync2) (b : Byte) :
    selected s b = if b = sync2 then .ws2Hit else .ws2Miss := by
  rw [selected, hst, selectTransition]

theorem selected_of_readLength (hst : s.st = .readLength) (b : Byte) :
    selected s b = if s.cfg.maxPayload < b.toNat then .lenOver else if b.toNat = 0 then .lenZero else .lenOk := by
  simp only [selected, hst, selectTransition, lcOver, lcZero, decide_eq_true_eq]

theorem selected_of_readPayload (hst : s.st = .readPayload) (b : Byte) :
    selected s b = if s.widx + 1 = s.len then .payLast else .payMore := by
  simp only [selected, hst, selectTransition, condsOf, lcLast, decide_eq_true_eq]

theorem selected_of_readChecksum (hst : s.st = .readChecksum) (b : Byte) :
    selected s b = if b = s.csum then .chkOk else .chkBad := by
  simp only [selected, hst, selectTransition, condsOf, csMatch, decide_eq_true_eq]

/-- What a selected transition says of the parse state and the byte: its row of format DEC applies (R100). -/
theorem applies_selected (s : State) (b : Byte) : (selected s b).Applies s.cfg (condsOf s b) s.st b :=
  applies_selectTransition s.cfg (condsOf s b) s.st b

/-- CHK_OK follows exactly on a byte that is not stale and matches the checksum in READ_CHECKSUM (R163). -/
theorem selected_beforeDispatch_eq_chkOk_iff :
    selected (beforeDispatch k s) b = .chkOk ↔ stale s k = false ∧ s.st = .readChecksum ∧ b = s.csum := by
  rw [selected_eq_chkOk_iff]
  cases hst : stale s k <;> simp [beforeDispatch, hst]

/-! ## What the operations give -/

theorem beforeDispatch_of_not_stale (h : stale s k = false) : beforeDispatch k s = stampTime k s := by
  simp [beforeDispatch, h]

/-- A zero length byte loads zero, in any width. -/
theorem lengthOperand_zero (p : Params) : lengthOperand p 0 = 0 := Nat.zero_mod _

/-- The sum of two bytes is the sum of their numbers modulo 256 (R124). -/
theorem byte_add_eq_ofNat (x y : Byte) : x + y = BitVec.ofNat 8 ((x.toNat + y.toNat) % 256) :=
  BitVec.eq_of_toNat_eq (by simp)

/-- Bytes that can each be read are collected together. -/
theorem firstBytes_of_memRead {m : Memory} {bs : List Byte} (h : ∀ i (hi : i < bs.length), memRead m i = some bs[i]) :
    firstBytes m bs.length = some bs := by
  induction bs using List.reverseRecOn with
  | nil => rfl
  | append_singleton bs b ih =>
    have hinit : firstBytes m bs.length = some bs := by
      refine ih fun i hi => ?_
      rw [h i (by simp; omega), List.getElem_append_left hi]
    have hlast : memRead m bs.length = some b := by
      rw [h bs.length (by simp), List.getElem_concat_length rfl]
    rw [List.length_append, List.length_singleton, firstBytes_succ m _ bs b hinit hlast]

/-- A payload byte below the top of `scratch` is stored, added and counted (R161). -/
theorem execPayMore_next (hw : s.widx < s.cfg.maxPayload) :
    execPayMore b s = .next (((s.withScratch (memWrite s.scratch s.widx b)).withCsum (s.csum + b)).withLength s.len
      (s.widx + 1)) := by
  rw [execPayMore, storePayload_next hw, nextWidx_eq hw]

/-- PAY_LAST is PAY_MORE with the step to READ_CHECKSUM (R162). -/
theorem execPayLast_next (hw : s.widx < s.cfg.maxPayload) :
    execPayLast b s = .next ((((s.withScratch (memWrite s.scratch s.widx b)).withCsum (s.csum + b)).withLength s.len
      (s.widx + 1)).withSt .readChecksum) := by
  rw [execPayLast, storePayload_next hw, nextWidx_eq hw, andThen_next]

theorem execChkOk_next {bs : List Byte} (hl : s.len ≤ s.cfg.maxPayload) (hb : firstBytes s.scratch s.len = some bs) :
    execChkOk b s = .next (decoderClear (s.withFrame s.len s.scratch ⟨s.len, bs⟩)) := by
  rw [execChkOk, emit_next hl hb, andThen_next]

end Sys2Proof.Machine

/-! PROOFS. The obligations on the single transitions of the decoder. -/

namespace Sys2Proof.Proofs

open Sys2Proof.Machine

/-- Settles O27: by evaluation; the key of format STL is the flag `stale`. -/
theorem staleClearReturnsTheDecoderToInitial : Obligations.StaleClearReturnsTheDecoderToInitial :=
  fun s => ⟨rfl, fetch_stl s⟩

/-- Settles O28: the effects by evaluation, the selection by the parse state's row of the dispatch. -/
theorem preambleTransitionsMoveOnlyTheParseState : Obligations.PreambleTransitionsMoveOnlyTheParseState := by
  refine fun s b => ⟨rfl, rfl, rfl, rfl, fun hst => ?_, fun hst => ?_⟩
  · rw [fetch_dec, selected_of_waitSync1 hst]
    split_ifs <;> rfl
  · rw [fetch_dec, selected_of_waitSync2 hst]
    split_ifs <;> rfl

/-- Settles O29: LEN_ZERO loads the zero byte as a length; a length of at most MAX_PAYLOAD fits LEN_W bits. -/
theorem lengthByteTransitionsClearOrLoad : Obligations.LengthByteTransitionsClearOrLoad := by
  refine fun s b => ⟨rfl, ?_, rfl, lengthOperand_eq, fun hst => ?_⟩
  · show Host.Outcome.next ((s.withCsum 0).withLength (lengthOperand s.cfg 0) 0 |>.withSt .readChecksum) = _
    rw [lengthOperand_zero]
    rfl
  · have hzero : b.toNat = 0 ↔ b = 0#8 := BitVec.toNat_inj (y := 0#8)
    simp only [fetch_dec, selected_of_readLength hst, hzero]
    split_ifs <;> rfl

/-- Settles O30: both transitions write the same byte at `widx`; `lc_last` tells which one is selected. -/
theorem payloadTransitionsStoreSumAndCount : Obligations.PayloadTransitionsStoreSumAndCount := by
  refine fun s b hw => ⟨⟨memWrite s.scratch s.widx b, ?_, ?_, memRead_memWrite_same _ _ _,
    fun _ => memRead_memWrite_other _ _⟩, fun hst => ?_⟩
  · rw [← byte_add_eq_ofNat]
    exact execPayMore_next hw
  · rw [← byte_add_eq_ofNat]
    exact execPayLast_next hw
  · rw [fetch_dec, selected_of_readPayload hst]
    split_ifs <;> rfl

/-- Settles O31: EMIT copies `scratch` as it is, so every byte of the copy reads the same; the clear leaves the frame output. -/
theorem checksumTransitionsEmitOrDropTheFrame : Obligations.ChecksumTransitionsEmitOrDropTheFrame := by
  refine fun s b => ⟨fun bytes hmax hlen hread => ⟨s.scratch, ?_, fun _ => rfl⟩, rfl, fun hst => ?_⟩
  · exact execChkOk_next (b := b) hmax (hlen ▸ firstBytes_of_memRead hread)
  · rw [fetch_dec, selected_of_readChecksum hst]
    split_ifs <;> rfl

end Sys2Proof.Proofs

/-! SUPPORT. EMIT and the store to `scratch` beside writes of other registers: what the feed's stamp, the control signals at one
clock edge and a change of the FIFO's registers have in common (R165, R170). -/

namespace Sys2Proof.Machine

variable {s o : State} {b : Byte} {k : Nat} {f : State → State}

theorem andThen_assoc (r : Result) (f g : State → Result) : andThen (andThen r f) g = andThen r fun u => andThen (f u) g := by
  cases r <;> rfl

theorem andThen_congr {r : Result} {f g : State → Result} (h : ∀ u, r = .next u → f u = g u) : andThen r f = andThen r g := by
  cases r with
  | next u => exact h u rfl
  | _ => rfl

/-- EMIT commutes with a write of registers that it neither reads nor writes. -/
theorem emit_commutes (hcfg : (f s).cfg = s.cfg := by rfl) (hlen : (f s).len = s.len := by rfl)
    (hscratch : (f s).scratch = s.scratch := by rfl)
    (hframe : ∀ n m x, (f s).withFrame n m x = f (s.withFrame n m x) := by exact fun _ _ _ => rfl) :
    emit (f s) = andThen (emit s) fun u => .next (f u) := by
  simp only [emit, hcfg, hlen, hscratch, hframe]
  split_ifs
  · cases firstBytes s.scratch s.len <;> rfl
  · rfl

/-- The store to `scratch` commutes with a write of registers that it neither reads nor writes. -/
theorem storeScratch_commutes (hcfg : (f s).cfg = s.cfg := by rfl) (hwidx : (f s).widx = s.widx := by rfl)
    (hscratch : (f s).scratch = s.scratch := by rfl)
    (hstore : ∀ m, (f s).withScratch m = f (s.withScratch m) := by exact fun _ => rfl) :
    storeScratch b (f s) = andThen (storeScratch b s) fun u => .next (f u) := by
  simp only [storeScratch, hcfg, hwidx, hscratch, hstore]
  split_ifs <;> rfl

theorem storeScratch_cases {t : State} (h : storeScratch b s = .next t) :
    s.widx < s.cfg.maxPayload ∧ t = s.withScratch (memWrite s.scratch s.widx b) := by
  unfold storeScratch at h
  split_ifs at h with hw
  exact ⟨hw, (Host.Outcome.next.inj h).symm⟩

/-! ## The control signals -/

theorem withSt_of_eq {x : ParseState} (h : s.st = x) : s.withSt x = s := by
  subst h
  rfl

/-- The datapath under a transition's row of R165, in a state where its row of the dispatch applies, does what the stamp and the
transition do. -/
theorem clockEdge_controlTable {x : Transition} (h : x.Applies s.cfg (condsOf s b) s.st b) :
    clockEdge (controlTable x) b k s = runTransition x b (stampTime k s) := by
  obtain ⟨hst, hbyte, -, -⟩ := h
  cases x with
  | ws1Miss => exact congrArg Host.Outcome.next (withSt_of_eq (s := stampTime k s) hst.symm)
  | lenZero =>
    obtain rfl : 0#8 = b := hbyte
    rfl
  | payMore =>
    show andThen (storeScratch b s) _ = andThen (storeScratch b (stampTime k s)) _
    rw [storeScratch_commutes (f := stampTime k), andThen_assoc]
    refine andThen_congr fun u hu => ?_
    obtain ⟨-, rfl⟩ := storeScratch_cases hu
    exact congrArg Host.Outcome.next (withSt_of_eq hst.symm)
  | payLast =>
    show andThen (storeScratch b s) _ = andThen (andThen (storeScratch b (stampTime k s)) _) _
    rw [storeScratch_commutes (f := stampTime k), andThen_assoc, andThen_assoc]
    rfl
  | chkOk =>
    show andThen (emit s) _ = andThen (emit (stampTime k s)) _
    rw [emit_commutes (f := stampTime k), andThen_assoc]
    rfl
  | _ => rfl

/-- One clock edge under the outputs for a byte is the feed (R165, R152). -/
theorem clockEdge_controls (s : State) (b : Byte) (k : Nat) : clockEdge (controls s true b k) b k s = feed b k s := by
  rw [feed_eq_dispatch]
  cases hstale : stale s k with
  | true =>
    rw [beforeDispatch_of_stale hstale, dispatch_of_waitSync1 rfl]
    simp only [controls, hstale, if_true]
    rfl
  | false =>
    rw [beforeDispatch_of_not_stale hstale]
    simp only [controls, hstale, if_true]
    exact clockEdge_controlTable (applies_selected s b)

/-! ## The feed beside other registers -/

/-- A write of registers that the decoder's operations do not use: it leaves what they read, and commutes with their writes (R170).
Whether it commutes with EMIT too is said apart, since it may be a write of the frame output. -/
structure BesideDecoder (f : State → State) : Prop where
  cfg : ∀ s, (f s).cfg = s.cfg := by exact fun _ => rfl
  st : ∀ s, (f s).st = s.st := by exact fun _ => rfl
  len : ∀ s, (f s).len = s.len := by exact fun _ => rfl
  widx : ∀ s, (f s).widx = s.widx := by exact fun _ => rfl
  csum : ∀ s, (f s).csum = s.csum := by exact fun _ => rfl
  scratch : ∀ s, (f s).scratch = s.scratch := by exact fun _ => rfl
  lastTs : ∀ s, (f s).lastTs = s.lastTs := by exact fun _ => rfl
  withSt : ∀ s x, (f s).withSt x = f (s.withSt x) := by exact fun _ _ => rfl
  withCsum : ∀ s v, (f s).withCsum v = f (s.withCsum v) := by exact fun _ _ => rfl
  withLength : ∀ s n w, (f s).withLength n w = f (s.withLength n w) := by exact fun _ _ _ => rfl
  withScratch : ∀ s m, (f s).withScratch m = f (s.withScratch m) := by exact fun _ _ => rfl
  withLastTs : ∀ s k, (f s).withLastTs k = f (s.withLastTs k) := by exact fun _ _ => rfl

namespace BesideDecoder

variable (hf : BesideDecoder f)
include hf

theorem decoderClear_comm (s : State) : decoderClear (f s) = f (decoderClear s) := by
  simp only [decoderClear_eq, hf.withCsum, hf.withLength, hf.withSt]

theorem storePayload_comm (b : Byte) (s : State) :
    storePayload b (f s) = andThen (storePayload b s) fun u => .next (f u) := by
  rw [storePayload, storeScratch_commutes (hf.cfg s) (hf.widx s) (hf.scratch s) (hf.withScratch s),
    storePayload, andThen_assoc, andThen_assoc]
  simp only [andThen_next, addSum_eq, incIndex_eq, hf.csum, hf.withCsum, hf.cfg, hf.len, hf.widx, hf.withLength]

theorem runTransition_comm {x : Transition} (hframe : x = .chkOk → ∀ n m y, (f s).withFrame n m y = f (s.withFrame n m y)) :
    runTransition x b (f s) = andThen (runTransition x b s) fun u => .next (f u) := by
  cases x with
  | payMore => exact hf.storePayload_comm b s
  | payLast =>
    simp only [runTransition, execPayLast, hf.storePayload_comm, andThen_assoc, andThen_next, hf.withSt]
  | chkOk =>
    simp only [runTransition, execChkOk, emit_commutes (hf.cfg s) (hf.len s) (hf.scratch s) (hframe rfl),
      andThen_assoc, andThen_next, hf.decoderClear_comm]
  | ws1Miss => rfl
  | ws1Hit | ws2Hit | ws2Miss => exact congrArg Host.Outcome.next (hf.withSt s _)
  | lenOver | chkBad => exact congrArg Host.Outcome.next (hf.decoderClear_comm s)
  | lenZero | lenOk =>
    simp only [runTransition, execLenZero, execLenOk, seedSum_eq, loadLength_eq, hf.withCsum, hf.cfg, hf.withLength,
      hf.withSt, andThen_next]

theorem beforeDispatch_comm (k : Nat) (s : State) : beforeDispatch k (f s) = f (beforeDispatch k s) := by
  have hstale : stale (f s) k = stale s k := by
    rw [Bool.eq_iff_iff, stale_iff, stale_iff, timeGap, timeGap, hf.cfg, hf.lastTs]
  simp only [beforeDispatch, hstale, stampTime_eq]
  split_ifs <;> simp only [hf.decoderClear_comm, hf.cfg, hf.withLastTs]

theorem selected_eq (s : State) (b : Byte) : selected (f s) b = selected s b := by
  simp only [selected, condsOf, lcLast, csMatch, hf.cfg, hf.st, hf.len, hf.widx, hf.csum]

/-- A feed commutes with such a write; the frame output matters only where the feed emits a frame. -/
theorem feed_comm (hframe : selected (beforeDispatch k s) b = .chkOk →
      ∀ u n m y, (f u).withFrame n m y = f (u.withFrame n m y)) :
    feed b k (f s) = andThen (feed b k s) fun u => .next (f u) := by
  rw [feed_eq_dispatch, feed_eq_dispatch, hf.beforeDispatch_comm, dispatch, hf.selected_eq]
  exact hf.runTransition_comm fun hx => hframe hx _

end BesideDecoder

/-- The FIFO, its records and `halted` replaced: the registers besides the decoder's that R170 names. -/
def State.withFifoSide (m : Memory) (h tl hs ts : Nat) (x : Bool) (l : List Submission) (r : List (Option Byte))
    (u : State) : State :=
  { u with fifoMem := m, head := h, tail := tl, headSeen := hs, tailSeen := ts, halted := x, submissions := l, pops := r }

theorem besideDecoder_withFifoSide (m : Memory) (h tl hs ts : Nat) (x : Bool) (l : List Submission) (r : List (Option Byte)) :
    BesideDecoder (State.withFifoSide m h tl hs ts x l r) := {}

/-- The coming moves are no input of the decoder (R47). -/
theorem besideDecoder_withAgenda (l : List Event) : BesideDecoder (State.withAgenda · l) := {}

/-! ## The three parts of a feed driven as moves of their own -/

theorem core_run_succ_of_step {u : State} (n : Nat) (h : step s = .next u) :
    Sys2Proof.core.run (n + 1) s = Sys2Proof.core.run n u := by
  simp [Host.Core.run, Sys2Proof.core, h]

theorem core_run_one (s : State) : Sys2Proof.core.run 1 s = step s := by
  cases h : step s <;> simp [Host.Core.run, Sys2Proof.core, h]

theorem step_stl (s : State) (k : Nat) (rest : List Event) :
    step (s.withAgenda (.stl k :: rest)) = .next ((if stale s k then decoderClear s else s).withAgenda rest) := by
  have hfetch := fetch_stl s k
  split_ifs at hfetch ⊢ with hstale
  · exact step_of_fetch_ok rfl ((fetch_withAgenda _ _ _).trans hfetch)
  · exact step_of_fetch_error rfl ((fetch_withAgenda _ _ _).trans hfetch)

theorem step_wd (s : State) (k : Nat) (rest : List Event) :
    step (s.withAgenda (.wd true k :: rest)) = .next ((stampTime k s).withAgenda rest) :=
  (step_of_fetch_ok rfl (fetch_wd _ true k)).trans rfl

theorem step_dec (s : State) (b : Byte) (rest : List Event) :
    step (s.withAgenda (.dec b :: rest)) = dispatch b (s.withAgenda rest) :=
  (step_of_fetch_ok rfl (fetch_dec _ b)).trans (exec_toInstr _ _ _)

/-! ## Two states with the same decoder -/

/-- The state `o` with the decoder of `u`, in the build of `u`. -/
def State.withDecoderOf (o u : State) : State :=
  { o with cfg := u.cfg, st := u.st, len := u.len, widx := u.widx, csum := u.csum, scratch := u.scratch, lastTs := u.lastTs }

/-- What EMIT in a state `s` gives the frame output of `o`: the trace takes what it added to that of `s`, now that of `u` (R206). -/
def State.withFrameOf (o s u : State) : State :=
  { o with
    frameValid := true, frameLen := s.len, framePayload := s.scratch
    framesOut := o.framesOut ++ u.framesOut.drop s.framesOut.length }

theorem besideDecoder_withDecoderOf (o : State) : BesideDecoder o.withDecoderOf := {}

theorem withDecoderOf_of_cfg {u : State} (h : u.cfg = o.cfg) :
    o.withDecoderOf u =
      { o with st := u.st, len := u.len, widx := u.widx, csum := u.csum, scratch := u.scratch, lastTs := u.lastTs } := by
  rw [State.withDecoderOf, h]

/-- EMIT reads the decoder alone, and writes the whole frame output. -/
theorem emit_withDecoderOf (o s : State) :
    emit (o.withDecoderOf s) = andThen (emit s) fun u => .next ((o.withDecoderOf u).withFrameOf s u) := by
  by_cases hl : s.len ≤ s.cfg.maxPayload
  · cases hb : firstBytes s.scratch s.len with
    | none => simp [emit, State.withDecoderOf, hl, hb]
    | some bs => simp [emit, State.withDecoderOf, hl, hb, State.withFrame, State.withFrameOf]
  · simp [emit, State.withDecoderOf, hl]

/-- A feed that emits a frame, on another state with the same decoder. -/
theorem feed_withDecoderOf_of_chkOk (o : State) (hstale : stale s k = false) (hst : s.st = .readChecksum) (hb : b = s.csum) :
    feed b k (o.withDecoderOf s) = andThen (feed b k s) fun u => .next ((o.withDecoderOf u).withFrameOf s u) := by
  have hsel := selected_beforeDispatch_eq_chkOk_iff.2 ⟨hstale, hst, hb⟩
  have hf := besideDecoder_withDecoderOf o
  rw [feed_eq_dispatch, feed_eq_dispatch, hf.beforeDispatch_comm, dispatch, dispatch, hf.selected_eq, hsel,
    beforeDispatch_of_not_stale hstale]
  simp only [runTransition, execChkOk, emit_withDecoderOf, andThen_assoc, andThen_next]
  rfl

end Sys2Proof.Machine

/-! PROOFS. The obligations on the feed as a whole. -/

namespace Sys2Proof.Proofs

open Sys2Proof.Machine

/-- Settles O33: the first two steps leave the state in which the feed dispatches its byte, the third dispatches it. -/
theorem feedIsStaleStepThenStampThenDispatch : Obligations.FeedIsStaleStepThenStampThenDispatch := by
  intro s b t
  have hbefore : beforeDispatch t (s.withAgenda []) = (beforeDispatch t s).withAgenda [] :=
    (besideDecoder_withAgenda []).beforeDispatch_comm t s
  show Sys2Proof.core.run 3 (s.withAgenda [.stl t, .wd true t, .dec b]) = feed b t (s.withAgenda [])
  rw [core_run_succ_of_step 2 (step_stl s t _), core_run_succ_of_step 1 (step_wd _ t _), core_run_one,
    feed_eq_dispatch, hbefore]
  exact step_dec (beforeDispatch t s) b []

/-- Settles O34: an edge with no valid byte holds every register. -/
theorem controlSignalsDoWhatTheFeedDoes : Obligations.ControlSignalsDoWhatTheFeedDoes :=
  fun s b t => ⟨clockEdge_controls s b t, rfl⟩

/-- Settles O37: a write of the FIFO's registers commutes with the feed, and so does the replacement of all but the decoder, except
where CHK_OK writes the frame output. -/
theorem feedTouchesNothingOfTheFifo : Obligations.FeedTouchesNothingOfTheFifo := by
  refine ⟨fun s b t m h tl hs ts x l r => ?_, fun s o b t hcfg hst hlen hwidx hcsum hscratch hlast => ?_⟩
  · exact (besideDecoder_withFifoSide m h tl hs ts x l r).feed_comm fun _ _ _ _ _ => rfl
  · have ho : o.withDecoderOf s = o := by
      rw [withDecoderOf_of_cfg hcfg.symm, ← hst, ← hlen, ← hwidx, ← hcsum, ← hscratch, ← hlast]
    have hfeed : feed b t o = andThen (feed b t s) fun u => .next
        (if stale s t = false ∧ s.st = .readChecksum ∧ b = s.csum then (o.withDecoderOf u).withFrameOf s u
          else o.withDecoderOf u) := by
      split_ifs with hok
      · obtain ⟨hstale, hst, hb⟩ := hok
        rw [← feed_withDecoderOf_of_chkOk o hstale hst hb, ho]
      · rw [← (besideDecoder_withDecoderOf o).feed_comm fun hsel => absurd (selected_beforeDispatch_eq_chkOk_iff.1 hsel) hok, ho]
    rw [hfeed]
    refine andThen_congr fun u hu => ?_
    rw [withDecoderOf_of_cfg ((feed_sameOutsideDecoder hu).cfg.trans hcfg.symm)]
    split_ifs <;> rfl

end Sys2Proof.Proofs

/-! SUPPORT. What feeds leave of the frame output, and a sequence of feeds with no stale gap (R141, R163, R167). -/

namespace Sys2Proof.Machine

variable {s t u : State} {b : Byte} {k : Nat}

/-! ## The frame output -/

/-- The second state has the build, the trace of frames and the last frame of the first: what only CHK_OK writes (R49, R206). -/
structure SameFrameOutput (s t : State) : Prop where
  cfg : t.cfg = s.cfg := by rfl
  framesOut : t.framesOut = s.framesOut := by rfl
  frameLen : t.frameLen = s.frameLen := by rfl
  framePayload : t.framePayload = s.framePayload := by rfl

theorem SameFrameOutput.trans (h : SameFrameOutput s t) (h' : SameFrameOutput t u) : SameFrameOutput s u :=
  ⟨h'.cfg.trans h.cfg, h'.framesOut.trans h.framesOut, h'.frameLen.trans h.frameLen, h'.framePayload.trans h.framePayload⟩

theorem beforeDispatch_sameFrameOutput (k : Nat) (s : State) : SameFrameOutput s (beforeDispatch k s) := by
  unfold beforeDispatch
  split <;> exact {}

/-- No transition takes a frame off the trace or stamps a time. -/
theorem runTransition_framesOut_lastTs {x : Transition} (h : runTransition x b s = .next t) :
    s.framesOut <+: t.framesOut ∧ t.lastTs = s.lastTs := by
  cases x with
  | payMore =>
    obtain ⟨-, rfl⟩ := storePayload_cases h
    exact ⟨List.prefix_rfl, rfl⟩
  | payLast =>
    obtain ⟨u, hu, rfl⟩ := execPayLast_cases h
    obtain ⟨-, rfl⟩ := storePayload_cases hu
    exact ⟨List.prefix_rfl, rfl⟩
  | chkOk =>
    obtain ⟨u, hu, rfl⟩ := execChkOk_cases (b := b) h
    obtain ⟨-, bs, -, rfl⟩ := emit_cases hu
    exact ⟨⟨_, rfl⟩, rfl⟩
  | _ =>
    cases h
    exact ⟨List.prefix_rfl, rfl⟩

theorem feed_framesOut_grows (h : feed b k s = .next t) : s.framesOut <+: t.framesOut := by
  rw [feed_eq_dispatch] at h
  rw [← (beforeDispatch_sameFrameOutput k s).framesOut]
  exact (runTransition_framesOut_lastTs h).1

/-! ## Sequences of feeds -/

theorem feeds_cons_of_next {l : List (Byte × Nat)} (h : feed b k s = .next t) : feeds ((b, k) :: l) s = feeds l t := by
  rw [feeds, h, andThen_next]

theorem feeds_append (l l' : List (Byte × Nat)) (s : State) : feeds (l ++ l') s = andThen (feeds l s) (feeds l') := by
  induction l generalizing s with
  | nil => rfl
  | cons x l ih =>
    obtain ⟨b, k⟩ := x
    rw [List.cons_append, feeds, feeds, andThen_assoc]
    exact andThen_congr fun u _ => ih u

theorem feeds_framesOut_grows {l : List (Byte × Nat)} (h : feeds l s = .next t) : s.framesOut <+: t.framesOut := by
  induction l generalizing s with
  | nil =>
    cases h
    exact List.prefix_rfl
  | cons x l ih =>
    obtain ⟨u, hu, hrest⟩ := andThen_eq_next.1 h
    exact (feed_framesOut_grows hu).trans (ih hrest)

/-- A sequence of feeds that adds no frame adds none on the way. -/
theorem feeds_take_of_no_frame {l : List (Byte × Nat)} (h : feeds l s = .next t) (hf : t.framesOut = s.framesOut) (n : Nat) :
    ∃ u, feeds (l.take n) s = .next u ∧ u.framesOut = s.framesOut := by
  rw [← List.take_append_drop n l, feeds_append] at h
  obtain ⟨u, hu, hrest⟩ := andThen_eq_next.1 h
  have hle : u.framesOut.length ≤ s.framesOut.length := hf ▸ (feeds_framesOut_grows hrest).length_le
  exact ⟨u, hu, ((feeds_framesOut_grows hu).eq_of_length_le hle).symm⟩

/-! ## The watchdog along a sequence of feeds -/

/-- The times to come leave no stale gap after the last feed, nor between them (R141, R167). -/
def Punctual (s : State) (times : List Nat) : Prop :=
  ∃ k, s.lastTs = timeOperand s.cfg k ∧ noStaleGap s.cfg (k :: times)

theorem Punctual.not_stale {times : List Nat} (h : Punctual s (k :: times)) : stale s k = false := by
  obtain ⟨j, hlast, hgap, -⟩ := h
  rw [Bool.eq_false_iff, Ne, stale_iff, timeGap, hlast]
  exact not_lt.2 hgap

/-- Every feed stamps its time (R150). -/
theorem feed_lastTs (h : feed b k s = .next t) : t.lastTs = timeOperand s.cfg k := by
  rw [feed_eq_dispatch] at h
  rw [(runTransition_framesOut_lastTs h).2, beforeDispatch]
  split <;> rfl

/-- After a feed the times that follow its own without a stale gap are on time. -/
theorem punctual_of_feed {times : List Nat} (h : feed b k s = .next t) (hgap : noStaleGap s.cfg (k :: times)) :
    Punctual t times := by
  have hcfg := (feed_sameOutsideDecoder h).cfg
  exact ⟨k, by rw [feed_lastTs h, hcfg], by rwa [hcfg]⟩

theorem Punctual.feed {times : List Nat} (hp : Punctual s (k :: times)) (h : feed b k s = .next t) : Punctual t times := by
  obtain ⟨_, -, -, hgap⟩ := hp
  exact punctual_of_feed h hgap

end Sys2Proof.Machine

/-! SUPPORT. A frame on the wire, byte by byte: what the decoder holds after preamble, length, payload and checksum (R90, R167). -/

namespace Sys2Proof.Machine

variable {s t u : State} {b : Byte} {k n : Nat} {bs : List Byte}

/-- A feed on time, by the row of the dispatch that holds. -/
theorem feed_of_rowHolds {x : Transition} (hns : stale s k = false) (hrow : rowHolds s b x) :
    feed b k s = runTransition x b (stampTime k s) := by
  have hsel : selected (stampTime k s) b = x := selected_of_rowHolds hrow
  rw [feed_eq_dispatch, beforeDispatch_of_not_stale hns, dispatch, hsel]

/-- The decoder has a length `n` and of its payload the bytes `bs`, with their running checksum (R36, R126). -/
structure Collected (n : Nat) (bs : List Byte) (s : State) : Prop where
  st : s.st = if bs.length = n then .readChecksum else .readPayload
  len : s.len = n
  widx : s.widx = bs.length
  csum : s.csum = checksumOf n bs
  bytes : firstBytes s.scratch bs.length = some bs

/-- A first preamble byte is a hit in WAIT_SYNC1, and in any state after a stale gap (R146). -/
theorem feed_sync1 (h : s.st = .waitSync1 ∨ stale s k = true) :
    ∃ u, feed sync1 k s = .next u ∧ u.st = .waitSync2 ∧ SameFrameOutput s u := by
  have hst : (beforeDispatch k s).st = .waitSync1 := by
    unfold beforeDispatch
    split_ifs with hstale
    · rfl
    · exact h.resolve_right hstale
  refine ⟨(beforeDispatch k s).withSt .waitSync2, ?_, rfl, (beforeDispatch_sameFrameOutput k s).trans {}⟩
  rw [feed_eq_dispatch, dispatch_of_waitSync1 hst, if_pos rfl]

theorem feed_sync2 (hns : stale s k = false) (hst : s.st = .waitSync2) :
    feed sync2 k s = .next ((stampTime k s).withSt .readLength) :=
  feed_of_rowHolds (x := .ws2Hit) hns ⟨hst, rfl⟩

/-- A legal length byte opens a payload of which no byte is there yet; an empty payload is complete with it (R159, R160). -/
theorem feed_length (hns : stale s k = false) (hst : s.st = .readLength) (hn : n ≤ s.cfg.maxPayload)
    (hmax : s.cfg.maxPayload ≤ 255) :
    ∃ u, feed (BitVec.ofNat 8 n) k s = .next u ∧ Collected n [] u ∧ SameFrameOutput s u := by
  have hb : (BitVec.ofNat 8 n).toNat = n := by
    rw [BitVec.toNat_ofNat, Nat.mod_eq_of_lt (by omega)]
  obtain rfl | hpos := Nat.eq_zero_or_pos n
  · rw [feed_of_rowHolds (x := .lenZero) hns ⟨hst, rfl⟩]
    exact ⟨_, rfl, ⟨rfl, lengthOperand_zero _, rfl, rfl, rfl⟩, {}⟩
  · have hlen : lengthOperand s.cfg (BitVec.ofNat 8 n) = n := by rw [lengthOperand_eq (by omega), hb]
    rw [feed_of_rowHolds (x := .lenOk) hns ⟨hst, by omega, by omega⟩]
    exact ⟨_, rfl, ⟨(if_neg hpos.ne).symm, hlen, rfl, rfl, rfl⟩, {}⟩

/-- A payload byte joins those collected (R161, R162). -/
theorem feed_payload (hns : stale s k = false) (hc : Collected n bs s) (hlt : bs.length < n) (hn : n ≤ s.cfg.maxPayload) :
    ∃ u, feed b k s = .next u ∧ Collected n (bs ++ [b]) u ∧ SameFrameOutput s u := by
  have hst : s.st = .readPayload := by rw [hc.st, if_neg hlt.ne]
  have hw : s.widx < s.cfg.maxPayload := by rw [hc.widx]; omega
  have hbytes : firstBytes (memWrite s.scratch s.widx b) (bs ++ [b]).length = some (bs ++ [b]) := by
    rw [List.length_append, hc.widx]
    exact firstBytes_memWrite_succ _ b hc.bytes
  have hcsum : s.csum + b = checksumOf n (bs ++ [b]) := by rw [checksumOf_append, hc.csum]
  have hwidx : s.widx + 1 = (bs ++ [b]).length := by rw [List.length_append, hc.widx]; rfl
  by_cases hlast : s.widx + 1 = s.len
  · have hfull : (bs ++ [b]).length = n := by rw [← hwidx, hlast, hc.len]
    rw [feed_of_rowHolds (x := .payLast) hns ⟨hst, hlast⟩, runTransition, execPayLast_next (s := stampTime k s) hw]
    exact ⟨_, rfl, ⟨(if_pos hfull).symm, hc.len, hwidx, hcsum, hbytes⟩, {}⟩
  · have hmore : (bs ++ [b]).length ≠ n := by rwa [← hwidx, ← hc.len]
    have hrow : rowHolds s b .payMore := ⟨hst, Nat.lt_of_le_of_ne (by rw [hc.widx, hc.len]; exact hlt) hlast⟩
    rw [feed_of_rowHolds hns hrow, runTransition, execPayMore_next (s := stampTime k s) hw]
    exact ⟨_, rfl, ⟨hst.trans (if_neg hmore).symm, hc.len, hwidx, hcsum, hbytes⟩, {}⟩

/-- The preamble and a legal length, from WAIT_SYNC1 or after a stale gap. -/
theorem feeds_header {k1 k2 k3 : Nat} {later : List Nat} (h : s.st = .waitSync1 ∨ stale s k1 = true)
    (hn : n ≤ s.cfg.maxPayload) (hmax : s.cfg.maxPayload ≤ 255) (hgap : noStaleGap s.cfg (k1 :: k2 :: k3 :: later)) :
    ∃ u, feeds [(sync1, k1), (sync2, k2), (BitVec.ofNat 8 n, k3)] s = .next u ∧ Collected n [] u ∧ SameFrameOutput s u ∧
      Punctual u later := by
  obtain ⟨s1, h1, hst1, hout1⟩ := feed_sync1 h
  have hp1 := punctual_of_feed h1 hgap
  have h2 := feed_sync2 hp1.not_stale hst1
  have hp2 := hp1.feed h2
  have hout2 : SameFrameOutput s ((stampTime k2 s1).withSt .readLength) := hout1.trans {}
  obtain ⟨u, h3, hc, hout3⟩ := feed_length (n := n) hp2.not_stale rfl (by rwa [hout2.cfg]) (by rwa [hout2.cfg])
  refine ⟨u, ?_, hc, hout2.trans hout3, hp2.feed h3⟩
  rw [feeds_cons_of_next h1, feeds_cons_of_next h2, feeds_cons_of_next h3, feeds]

/-- The payload that is still to come joins the bytes collected. -/
theorem feeds_payload {l : List (Byte × Nat)} {later : List Nat} (hc : Collected n bs s) (hlen : bs.length + l.length ≤ n)
    (hn : n ≤ s.cfg.maxPayload) (hp : Punctual s (l.map Prod.snd ++ later)) :
    ∃ u, feeds l s = .next u ∧ Collected n (bs ++ l.map Prod.fst) u ∧ SameFrameOutput s u ∧ Punctual u later := by
  induction l generalizing s bs with
  | nil => exact ⟨s, rfl, by simpa using hc, {}, hp⟩
  | cons x l ih =>
    obtain ⟨b, k⟩ := x
    rw [List.length_cons] at hlen
    obtain ⟨t, ht, hct, hout⟩ := feed_payload (b := b) hp.not_stale hc (by omega) hn
    obtain ⟨u, hu, hcu, hout', hpu⟩ := ih hct (by simp; omega) (by rwa [hout.cfg]) (hp.feed ht)
    exact ⟨u, (feeds_cons_of_next ht).trans hu, by simpa using hcu, hout.trans hout', hpu⟩

theorem length_wireFrame (payload : List Byte) (c : Byte) : (wireFrame payload c).length = payload.length + 4 := by
  simp [wireFrame]

/-- A frame up to its checksum byte: the payload is collected, and the checksum byte will be on time. -/
theorem feeds_frame_before_checksum {payload : List Byte} {times : List Nat} (c : Byte) (hok : s.cfg.ok)
    (hlen : payload.length ≤ s.cfg.maxPayload) (htimes : times.length = payload.length + 4) (hgap : noStaleGap s.cfg times)
    (hstart : s.st = .waitSync1 ∨ ∃ k ks, times = k :: ks ∧ stale s k = true) :
    ∃ init k u, (wireFrame payload c).zip times = init ++ [(c, k)] ∧ feeds init s = .next u ∧
      Collected payload.length payload u ∧ SameFrameOutput s u ∧ stale u k = false := by
  obtain ⟨-, hmax, -⟩ := hok
  have hsize : (wireFrame payload c).length = times.length := by rw [length_wireFrame, htimes]
  have hl : ((wireFrame payload c).zip times).map Prod.fst = wireFrame payload c := List.map_fst_zip hsize.le
  have hks : ((wireFrame payload c).zip times).map Prod.snd = times := List.map_snd_zip hsize.ge
  generalize (wireFrame payload c).zip times = l at hl hks ⊢
  subst hks
  simp only [wireFrame, List.map_eq_cons_iff, List.map_eq_append_iff, List.map_eq_nil_iff] at hl
  obtain ⟨⟨_, k1⟩, _, rfl, rfl, ⟨_, k2⟩, _, rfl, rfl, ⟨_, k3⟩, _, rfl, rfl, m, _, rfl, rfl, ⟨_, k4⟩, _, rfl, rfl,
    rfl⟩ := hl
  simp only [List.map_cons, List.map_append, List.map_nil] at hgap hstart
  have hstart1 : s.st = .waitSync1 ∨ stale s k1 = true := hstart.imp_right fun ⟨_, _, hk, hstale⟩ => by
    cases hk
    exact hstale
  obtain ⟨t, ht, hct, hout, hpt⟩ := feeds_header hstart1 hlen hmax hgap
  obtain ⟨u, hu, hcu, hout', hpu⟩ := feeds_payload (l := m) hct (by simp) (by rwa [hout.cfg]) hpt
  refine ⟨[_, _, _] ++ m, k4, u, rfl, ?_, hcu, hout.trans hout', hpu.not_stale⟩
  rw [feeds_append, ht, andThen_next, hu]

theorem frameOut_of_firstBytes (h : firstBytes s.framePayload s.frameLen = some bs) : frameOut s = some ⟨s.frameLen, bs⟩ := by
  rw [frameOut, h]

/-- The checksum byte of a whole payload emits the frame and clears the decoder (R163). -/
theorem feed_checksum_match (hns : stale s k = false) (hc : Collected bs.length bs s) (hn : bs.length ≤ s.cfg.maxPayload) :
    feed (checksumOf bs.length bs) k s =
      .next (decoderClear ((stampTime k s).withFrame bs.length s.scratch ⟨bs.length, bs⟩)) := by
  have hst : s.st = .readChecksum := by rw [hc.st, if_pos rfl]
  have hbytes : firstBytes s.scratch s.len = some bs := by rw [hc.len, hc.bytes]
  rw [feed_of_rowHolds (x := .chkOk) hns ⟨hst, hc.csum.symm⟩, runTransition,
    execChkOk_next (s := stampTime k s) (hc.len.trans_le hn) hbytes, stampTime_eq, State.withLastTs_len, hc.len]
  rfl

/-- Any other byte there only clears it (R164). -/
theorem feed_checksum_mismatch {c : Byte} (hns : stale s k = false) (hc : Collected bs.length bs s)
    (hne : c ≠ checksumOf bs.length bs) : feed c k s = .next (decoderClear (stampTime k s)) := by
  have hst : s.st = .readChecksum := by rw [hc.st, if_pos rfl]
  exact feed_of_rowHolds (x := .chkBad) hns ⟨hst, by rwa [hc.csum]⟩

/-! ## One changed payload byte -/

theorem checksumOf_cons (n : Nat) (b : Byte) (bs : List Byte) : checksumOf n (b :: bs) = checksumOf (n + b.toNat) bs := by
  simp [checksumOf, Nat.add_assoc]

/-- Two payloads that differ in one byte alone have different checksums, since the byte has eight bits as the sum has (R169). -/
theorem checksumOf_set_ne {i : Nat} {v : Byte} {payload : List Byte} (hi : i < payload.length) (hv : payload[i]? ≠ some v)
    (n : Nat) : checksumOf n (payload.set i v) ≠ checksumOf n payload := by
  induction payload generalizing i n with
  | nil => simp at hi
  | cons x bs ih =>
    cases i with
    | zero =>
      intro heq
      have hsum := congrArg BitVec.toNat heq
      simp only [List.set_cons_zero, checksumOf, List.map_cons, List.sum_cons, BitVec.toNat_ofNat] at hsum
      have hvx : v.toNat = x.toNat := by omega
      exact hv (by rw [BitVec.eq_of_toNat_eq hvx]; rfl)
    | succ i =>
      rw [List.set_cons_succ, checksumOf_cons, checksumOf_cons]
      exact ih (by simpa using hi) (by simpa using hv) _

/-- A frame with a wrong checksum byte: no frame, and a cleared decoder (R164). -/
theorem feeds_frame_mismatch {payload : List Byte} {c : Byte} {times : List Nat} (hok : s.cfg.ok)
    (hlen : payload.length ≤ s.cfg.maxPayload) (htimes : times.length = payload.length + 4) (hgap : noStaleGap s.cfg times)
    (hst : s.st = .waitSync1) (hne : c ≠ checksumOf payload.length payload) :
    ∃ k u, feeds ((wireFrame payload c).zip times) s = .next (decoderClear (stampTime k u)) ∧ SameFrameOutput s u := by
  obtain ⟨init, k, u, hinit, hu, hc, hout, hns⟩ := feeds_frame_before_checksum c hok hlen htimes hgap (.inl hst)
  refine ⟨k, u, ?_, hout⟩
  rw [hinit, feeds_append, hu, andThen_next, feeds_cons_of_next (feed_checksum_mismatch hns hc hne)]
  rfl

end Sys2Proof.Machine

/-! PROOFS. The obligations on whole frames. -/

namespace Sys2Proof.Proofs

open Sys2Proof.Machine

/-- Settles O38: the bytes before the checksum collect the payload and add no frame, so no part of them does; the checksum byte
emits the payload and clears the decoder. -/
theorem validFrameIsDecodedExactlyOnce : Obligations.ValidFrameIsDecodedExactlyOnce := by
  intro s payload times hok hlen htimes hgap hstart
  obtain ⟨init, k, u, hinit, hu, hc, hout, hns⟩ :=
    feeds_frame_before_checksum (checksumOf payload.length payload) hok hlen htimes hgap hstart
  rw [hinit]
  refine ⟨⟨decoderClear ((stampTime k u).withFrame payload.length u.scratch ⟨payload.length, payload⟩), ?_, ?_, ?_,
    rfl, rfl, rfl, rfl⟩, fun n hn => ?_⟩
  · rw [feeds_append, hu, andThen_next]
    exact feeds_cons_of_next (feed_checksum_match hns hc (by rwa [hout.cfg]))
  · exact congrArg (· ++ _) hout.framesOut
  · exact frameOut_of_firstBytes (s := u.withFrame payload.length u.scratch ⟨payload.length, payload⟩) hc.bytes
  · have hsize := congrArg List.length hinit
    rw [List.length_zip, length_wireFrame, List.length_append, List.length_singleton] at hsize
    rw [List.take_append_of_le_length (by omega)]
    exact feeds_take_of_no_frame hu hout.framesOut n

/-- Settles O39: one changed byte of the payload changes its checksum, so both cases are a checksum byte that does not match. -/
theorem corruptedPayloadOrChecksumEmitsNothing : Obligations.CorruptedPayloadOrChecksumEmitsNothing := by
  refine ⟨fun s payload c times hok hlen htimes hgap hst hne => ?_,
    fun s payload i v times hok hlen htimes hgap hst hv hi => ?_⟩
  · obtain ⟨k, u, hu, hout⟩ := feeds_frame_mismatch hok hlen htimes hgap hst hne
    exact ⟨_, hu, hout.framesOut, hout.frameLen, hout.framePayload, rfl, rfl, rfl, rfl⟩
  · have hsize : (payload.set i v).length = payload.length := List.length_set
    have hne : checksumOf payload.length payload ≠ checksumOf (payload.set i v).length (payload.set i v) := by
      rw [hsize]
      exact (checksumOf_set_ne hi hv _).symm
    obtain ⟨k, u, hu, hout⟩ := feeds_frame_mismatch (payload := payload.set i v) hok (by omega) (by omega) hgap hst hne
    exact ⟨_, hu, hout.framesOut, hout.frameLen, hout.framePayload, rfl, rfl, rfl, rfl⟩

end Sys2Proof.Proofs

/-! SUPPORT. PUSH and POP by what the flags say, submissions to a full channel, and which operations leave the two flags
(R181, R183, R191). -/

namespace Sys2Proof.Machine

variable {s t u v : State} {b : Byte} {i j : Instr}

theorem exec_push_of_full (hfull : nextIndex s.cfg s.head = s.tailSeen) :
    exec (.push b) s = .next (s.withAnswer b .rejectedChannelFull) :=
  if_pos ((wrFull_iff s).2 hfull)

theorem exec_pop_of_popByte {r : Option Byte} (h : popByte s = .ok (r, t)) : exec .pop s = .next t := by
  simp only [exec, execPop, h]

theorem exec_pop_of_empty (hempty : s.tail = s.headSeen) : exec .pop s = .next (s.withPopResult none) :=
  exec_pop_of_popByte (popByte_none ((rdEmpty_iff s).2 hempty))

theorem exec_pop_of_visible {w : Byte} (hne : s.tail ≠ s.headSeen) (ht : s.tail < s.cfg.fifoDepth)
    (hw : memRead s.fifoMem s.tail = some w) : exec .pop s = .next (popped w s) :=
  exec_pop_of_popByte (popByte_some (by simpa [rdEmpty] using hne) ht hw)

/-! ## The order of a push and a pop -/

/-- A byte that the consumer sees lies in an occupied slot, so not in the slot at `head` (R192). -/
theorem tail_ne_head_of_not_rdEmpty (hr : RingInv s) (he : rdEmpty s = false) : s.tail ≠ s.head := by
  intro heq
  have hseen := headSeen_eq_head_of_empty hr heq.symm
  rw [(rdEmpty_iff s).2 (heq.trans hseen.symm)] at he
  cases he

/-- Two operations whose second runs end in one state can be taken in either order. -/
theorem andThen_exec_either_order (hi : exec i s = .next u) (hij : exec j u = .next t) (hj : exec j s = .next v)
    (hji : exec i v = .next t) : ∃ t, andThen (exec i s) (exec j) = .next t ∧ andThen (exec j s) (exec i) = .next t :=
  ⟨t, andThen_eq_next.2 ⟨u, hi, hij⟩, andThen_eq_next.2 ⟨v, hj, hji⟩⟩

/-! ## Submissions to a full channel -/

/-- Submissions to a channel that the producer sees full are all rejected, and no index moves (R181, R235). -/
theorem execAll_push_of_full {bytes : List Byte} (hfull : bytes ≠ [] → nextIndex s.cfg s.head = s.tailSeen) :
    ∃ t, execAll (bytes.map .push) s = .next t ∧
      t.submissions = s.submissions ++ bytes.map (⟨·, .rejectedChannelFull⟩) ∧ t.head = s.head ∧ t.tail = s.tail := by
  induction bytes generalizing s with
  | nil => exact ⟨s, rfl, by simp, rfl, rfl⟩
  | cons w bytes ih =>
    have hfull' := hfull (List.cons_ne_nil w bytes)
    obtain ⟨t, hall, hsub, hhead, htail⟩ := ih (s := s.withAnswer w .rejectedChannelFull) fun _ => hfull'
    exact ⟨t, (execAll_cons_of_next (exec_push_of_full hfull')).trans hall, by simp [hsub], hhead, htail⟩

/-! ## What leaves the flags -/

/-- On a channel that the consumer sees empty nothing but a reset moves `tail`: a POP returns None (R183). -/
theorem exec_tail_of_empty (he : rdEmpty s = true) (h : exec i s = .next t) (hreset : i ≠ .reset) : t.tail = s.tail := by
  obtain ⟨-, htail, -⟩ := Proofs.eachRegisterHasItsOneWriter i s t h hreset
  by_contra hmoved
  rcases htail (.inl hmoved) with rfl | ⟨k, rfl⟩
  · rw [exec_pop_of_empty ((rdEmpty_iff s).1 he)] at h
    cases h
    exact hmoved rfl
  · rcases execConsume_cases h with ⟨-, rfl⟩ | ⟨_, hvisible, -⟩
    · exact hmoved rfl
    · simp [he] at hvisible

/-- On a channel that the producer sees full nothing but a reset moves `head`: a PUSH is rejected (R181). -/
theorem exec_head_of_full (hf : wrFull s = true) (h : exec i s = .next t) (hreset : i ≠ .reset) : t.head = s.head := by
  obtain ⟨hhead, -⟩ := Proofs.eachRegisterHasItsOneWriter i s t h hreset
  by_contra hmoved
  obtain ⟨w, rfl⟩ := hhead (.inr (.inl hmoved))
  rw [exec_push_of_full ((wrFull_iff s).1 hf)] at h
  cases h
  exact hmoved rfl

end Sys2Proof.Machine

/-! SUPPORT. The Gray code bit by bit, its conversion back, and what a sample of two codes one bit apart can be (R187). -/

namespace Sys2Proof.Machine

variable {w x y m j : Nat}

/-- A further lowest bit goes into the code as its XOR with the bit above it. -/
theorem gray_bit (b : Bool) (y : Nat) : gray (Nat.bit b y) = Nat.bit (b ^^ y.testBit 0) (gray y) := by
  calc gray (Nat.bit b y) = Nat.bit b y ^^^ y := by rw [gray, Nat.bit_shiftRight_one]
    _ = Nat.bit b y ^^^ Nat.bit (y.testBit 0) (y >>> 1) := by rw [Nat.bit_testBit_zero_shiftRight_one]
    _ = Nat.bit (b ^^ y.testBit 0) (gray y) := Nat.xor_bit b y _ _

theorem gray_shiftRight_one (x : Nat) : gray x >>> 1 = gray (x >>> 1) :=
  Nat.shiftRight_xor_distrib

/-- The code of a `w`-bit number converts back to it. -/
theorem grayToBinary_gray (hx : x < 2 ^ w) : grayToBinary w (gray x) = x := by
  induction w generalizing x with
  | zero =>
    obtain rfl : x = 0 := by simpa using hx
    rfl
  | succ w ih =>
    have hhalf : x >>> 1 < 2 ^ w := by
      rw [Nat.shiftRight_one]
      omega
    rw [grayToBinary, gray_shiftRight_one, ih hhalf, gray, Nat.xor_xor_cancel_right]

/-- Counting up, with the wrap, changes bit 0. -/
theorem testBit_zero_succ_mod (hw : 0 < w) (y : Nat) : ((y + 1) % 2 ^ w).testBit 0 = !y.testBit 0 := by
  rcases Nat.mod_two_eq_zero_or_one y with h | h <;> simp [hw, Nat.succ_mod_two_eq_one_iff, h]

/-- Counting up, with the wrap, changes one bit of the code. From an even number it is bit 0; from an odd one bit 0 stays, and the
bit is the one that changes as the upper half counts up. -/
theorem gray_succ_mod (hw : 1 ≤ w) (hx : x < 2 ^ w) : ∃ j < w, gray ((x + 1) % 2 ^ w) = gray x ^^^ 2 ^ j := by
  induction w, hw using Nat.le_induction generalizing x with
  | base =>
    refine ⟨0, Nat.one_pos, ?_⟩
    interval_cases x <;> rfl
  | succ w hw ih =>
    obtain ⟨b, y, rfl⟩ : ∃ b y, x = Nat.bit b y := ⟨_, _, (Nat.bit_bodd_div2 x).symm⟩
    cases b with
    | false =>
      have hsucc : (Nat.bit false y + 1) % 2 ^ (w + 1) = Nat.bit true y := 
        Nat.mod_eq_of_lt (a := Nat.bit true y) (Nat.bit_lt_two_pow_succ_iff.2 (Nat.bit_lt_two_pow_succ_iff.1 hx))
      refine ⟨0, w.succ_pos, ?_⟩
      rw [hsucc, gray_bit, gray_bit, show 2 ^ 0 = Nat.bit true 0 from rfl, Nat.xor_bit]
      simp
    | true =>
      obtain ⟨j, hj, hcode⟩ := ih (Nat.bit_lt_two_pow_succ_iff.1 hx)
      have hsucc : (Nat.bit true y + 1) % 2 ^ (w + 1) = Nat.bit false ((y + 1) % 2 ^ w) := by
        rw [Nat.bit_true_apply, Nat.bit_false_apply, Nat.pow_succ', ← Nat.mul_mod_mul_left, Nat.mul_succ]
      refine ⟨j + 1, by omega, ?_⟩
      rw [hsucc, gray_bit, gray_bit, hcode, testBit_zero_succ_mod hw, Nat.pow_succ', ← Nat.bit_false_apply, Nat.xor_bit]
      simp

/-- Between two codes one bit apart there is no third. -/
theorem eq_or_eq_of_sampleBetween (h : SampleBetween x (x ^^^ 2 ^ j) m) : m = x ∨ m = x ^^^ 2 ^ j := by
  have hother (i : Nat) (hi : i ≠ j) : (x ^^^ 2 ^ j).testBit i = x.testBit i := by
    simp [Nat.testBit_xor, Nat.testBit_two_pow_of_ne hi.symm]
  refine (h j).imp (fun hold => ?_) (fun hnew => ?_) <;> refine Nat.eq_of_testBit_eq fun i => ?_
  · rcases eq_or_ne i j with rfl | hi
    · exact hold
    · simpa [hother i hi] using h i
  · rcases eq_or_ne i j with rfl | hi
    · exact hnew
    · simpa [hother i hi] using h i

end Sys2Proof.Machine

/-! PROOFS. The obligations on the bounded FIFO and the crossing. -/

namespace Sys2Proof.Proofs

open Sys2Proof.Machine

/-- Settles O8: by `wr_full`; the byte stored is read back at `head` and nowhere else. -/
theorem pushStoresAtHeadOrIsRejectedWhenFull : Obligations.PushStoresAtHeadOrIsRejectedWhenFull :=
  fun b s => ⟨fun hfull => exec_push_of_full hfull, fun hfree hh =>
    ⟨memWrite s.fifoMem s.head b, exec_push_of_free hh hfree, memRead_memWrite_same _ _ _,
      fun _ ha => memRead_memWrite_other _ _ ha⟩⟩

/-- Settles O9: by `rd_empty`. -/
theorem popReturnsTheByteAtTailOrNone : Obligations.PopReturnsTheByteAtTailOrNone :=
  fun _ => ⟨fun hempty => exec_pop_of_empty hempty, fun _ hne ht hv => exec_pop_of_visible hne ht hv⟩

/-- Settles O10: the two operations are the ones that the ports' keys decode to with their valid bit 0. -/
theorem idlePortCyclesWriteNothing : Obligations.IdlePortCyclesWriteNothing :=
  fun s => ⟨rfl, rfl, fun d => fetch_wr s false d, fetch_rdPort s false⟩

/-- Settles O11: by the test of `k` against the distance. -/
theorem synchroniserMovesItsViewForward : Obligations.SynchroniserMovesItsViewForward :=
  fun _ _ => ⟨fun hk => if_pos hk, fun hk => if_pos hk, fun hk => if_neg (Nat.not_le.2 hk),
    fun hk => if_neg (Nat.not_le.2 hk)⟩

/-- Settles O15: a flag compares an index of its own side, which stays while the flag is 1, with a view that only its synchroniser
moves; a reset makes the channel empty. -/
theorem flagsFallOnlyBySynchroniserSteps : Obligations.FlagsFallOnlyBySynchroniserSteps := by
  intro i s t _ h
  by_cases hreset : i = .reset
  · subst hreset
    cases h
    refine ⟨fun _ hfall => ?_, fun _ _ => .inl rfl⟩
    cases hfall
  · obtain ⟨-, -, hheadSeen, htailSeen, -, -, -, -, -, -, -, -, -, hcfg, -⟩ :=
      eachRegisterHasItsOneWriter i s t h hreset
    refine ⟨fun he hfall => hheadSeen fun hsame => ?_, fun hf hfall => .inr (htailSeen fun hsame => ?_)⟩
    · simp [rdEmpty, exec_tail_of_empty he h hreset, hsame, (rdEmpty_iff s).1 he] at hfall
    · simp [wrFull, exec_head_of_full hf h hreset, hsame, hcfg, (wrFull_iff s).1 hf] at hfall

/-- Settles O16: neither operation moves what the other's flag reads, and a byte pushed at `head` is not in the slot at `tail` that
a pop reads. -/
theorem pushAndPopCommute : Obligations.PushAndPopCommute := by
  intro b s _ hr hf
  refine ⟨tail_ne_head_of_not_rdEmpty hr, ?_⟩
  have ⟨hh, ht, _⟩ := hr
  by_cases hempty : s.tail = s.headSeen
  · have hpop := exec_pop_of_empty hempty
    by_cases hfull : nextIndex s.cfg s.head = s.tailSeen
    · exact andThen_exec_either_order (exec_push_of_full hfull) (exec_pop_of_empty hempty) hpop (exec_push_of_full hfull)
    · exact andThen_exec_either_order (exec_push_of_free hh hfull) (exec_pop_of_empty hempty) hpop
        (exec_push_of_free hh hfull)
  · have he : rdEmpty s = false := by simpa [rdEmpty] using hempty
    obtain ⟨v, -, -, hv⟩ := contents_eq_cons_of_not_rdEmpty hr hf he
    have hpop := exec_pop_of_visible hempty ht hv
    by_cases hfull : nextIndex s.cfg s.head = s.tailSeen
    · exact andThen_exec_either_order (exec_push_of_full hfull) (exec_pop_of_visible hempty ht hv) hpop
        (exec_push_of_full hfull)
    · have hv' : memRead (pushed b s).fifoMem s.tail = some v :=
        (memRead_memWrite_other _ _ (tail_ne_head_of_not_rdEmpty hr he)).trans hv
      exact andThen_exec_either_order (exec_push_of_free hh hfull) (exec_pop_of_visible hempty ht hv') hpop
        (exec_push_of_free hh hfull)

/-- Settles O17: FIFO_DEPTH − 1 bytes fit into the slots that the producer sees free; if more are submitted, `head` then stands one
place behind `tail_seen`, and the rest meets a full channel. -/
theorem onlyTheUsableSlotsAccept : Obligations.OnlyTheUsableSlotsAccept := by
  rintro s bytes ⟨-, -, hd, -⟩ hr hempty htailSeen
  have ⟨hh, _⟩ := hr
  have hview : s.tailSeen = s.head := htailSeen.trans hempty.symm
  obtain ⟨u, hpush, hru, -, hhead, hcfg, htail, -, hseen, -, hsub⟩ :=
    execAll_push (bytes := bytes.take (s.cfg.fifoDepth - 1)) hr (by
      rw [hview, ringDist_self, List.length_take]
      omega)
  have hfull : bytes.drop (s.cfg.fifoDepth - 1) ≠ [] → nextIndex u.cfg u.head = u.tailSeen := by
    intro hmore
    have hmore' : s.cfg.fifoDepth - 1 < bytes.length := by simpa using hmore
    have hroom : ringDist s.cfg s.head s.head + (s.cfg.fifoDepth - 1) < s.cfg.fifoDepth := by
      rw [ringDist_self]
      omega
    have ⟨hhu, _, _, htsu, _⟩ := hru
    rw [nextIndex_eq_iff_ringDist htsu hhu, hcfg, hseen, hview, hhead, List.length_take_of_le hmore'.le,
      ringDist_forward_right hh hh hroom, ringDist_self, Nat.zero_add]
  obtain ⟨t, hrest, hsub', hhead', htail'⟩ := execAll_push_of_full hfull
  refine ⟨t, ?_, ?_, ?_, htail'.trans htail⟩
  · rw [← List.take_append_drop (s.cfg.fifoDepth - 1) bytes, List.map_append, execAll_append, hpush, andThen_next, hrest]
  · rw [hsub', hsub]
  · rw [hhead', hhead, List.length_take, Nat.min_comm, forward]

/-- Settles O59: by the lemmas on counting up and on converting back. -/
theorem grayCodesOfSuccessiveIndicesDifferInOneBit : Obligations.GrayCodesOfSuccessiveIndicesDifferInOneBit :=
  fun _ _ hw hx => ⟨gray_succ_mod hw hx, grayToBinary_gray hx⟩

/-- Settles O60: the two codes are one bit apart, so the sample is one of them, and both convert back. -/
theorem sampleOfAGrayCodedIndexIsOldOrNew : Obligations.SampleOfAGrayCodedIndexIsOldOrNew := by
  intro w x m hw hx hm
  obtain ⟨j, -, hj⟩ := gray_succ_mod hw hx
  rw [hj] at hm
  rcases eq_or_eq_of_sampleBetween hm with rfl | rfl
  · exact .inl (grayToBinary_gray hx)
  · rw [← hj]
    exact .inr (grayToBinary_gray (Nat.mod_lt _ (Nat.two_pow_pos w)))

end Sys2Proof.Proofs

/-! SUPPORT. That the moves of the wired block complete in a state that meets the invariant (R213, R230), CONSUME as a pop and a
feed (R202), and what a move does while `halted` is 1 (R205). -/

namespace Sys2Proof.Machine

variable {s t : State} {b v : Byte} {k : Nat} {e : Event} {rest : List Event} {i : Instr}

/-! ## What completes -/

/-- A transition whose row of the dispatch holds completes: the invariant keeps `widx` inside `scratch`, and every byte of a whole
payload has a value (R36, R37). -/
theorem runTransition_completes {x : Transition} (hd : DecoderInv s) (hrow : rowHolds s b x) :
    ∃ t, runTransition x b s = .next t := by
  obtain ⟨-, hpay, hchk⟩ := hd
  cases x with
  | payMore =>
    obtain ⟨hst, -⟩ := hrow
    obtain ⟨-, hmax, hlt, -⟩ := hpay hst
    exact ⟨_, execPayMore_next (by omega)⟩
  | payLast =>
    obtain ⟨hst, -⟩ := hrow
    obtain ⟨-, hmax, hlt, -⟩ := hpay hst
    exact ⟨_, execPayLast_next (by omega)⟩
  | chkOk =>
    obtain ⟨hst, -⟩ := hrow
    obtain ⟨hmax, hwidx, hsum⟩ := hchk hst
    obtain ⟨bs, hbs, -⟩ := (sumInv_iff s).1 hsum
    exact ⟨_, execChkOk_next (b := b) hmax (hwidx ▸ hbs)⟩
  | _ => exact ⟨_, rfl⟩

theorem feed_completes (hd : DecoderInv s) (b : Byte) (k : Nat) : ∃ t, feed b k s = .next t := by
  have hd' := decoderInv_beforeDispatch hd k
  rw [feed_eq_dispatch]
  exact runTransition_completes hd' (rowHolds_selected hd' b)

theorem exec_push_completes (hr : RingInv s) (b : Byte) : ∃ t, exec (.push b) s = .next t := by
  by_cases hfull : nextIndex s.cfg s.head = s.tailSeen
  · exact ⟨_, exec_push_of_full hfull⟩
  · have ⟨hh, _⟩ := hr
    exact ⟨_, exec_push_of_free hh hfull⟩

/-- CONSUME with a visible byte is the feed of that byte, after the pop, with the pulse low (R202). -/
theorem exec_consume_of_visible (he : rdEmpty s = false) (ht : s.tail < s.cfg.fifoDepth)
    (hv : memRead s.fifoMem s.tail = some v) : exec (.consume k) s = feed v k ((popped v s).withFrameValid false) := by
  simp only [exec, execConsume, popByte_some he ht hv, popped]

/-- Under the invariant a visible byte has a value, and its feed completes. -/
theorem exec_consume_completes (hs : BlockInv s) (he : rdEmpty s = false) (k : Nat) :
    ∃ v t, memRead s.fifoMem s.tail = some v ∧ exec (.consume k) s = .next t ∧
      feed v k ((popped v s).withFrameValid false) = .next t := by
  obtain ⟨⟨-, hr, hf, -⟩, hd⟩ := hs
  have ⟨_, ht, _⟩ := hr
  obtain ⟨v, -, -, hv⟩ := contents_eq_cons_of_not_rdEmpty hr hf he
  obtain ⟨t, hfeed⟩ := feed_completes (s := (popped v s).withFrameValid false) hd v k
  exact ⟨v, t, hv, (exec_consume_of_visible he ht hv).trans hfeed, hfeed⟩

/-- Every move that the hardware can make has a next state. -/
theorem step_completes (hs : BlockInv s) (ha : s.agenda = e :: rest) (hw : e.wired = true) (hc : e.allowed s = true) :
    ∃ t, step s = .next t := by
  have hs' : BlockInv (s.withAgenda rest) := hs
  cases e with
  | wr valid d =>
    have ⟨⟨_, hr, _⟩, _⟩ := hs'
    rw [step_of_fetch_ok ha (fetch_wr s valid d)]
    split_ifs
    · exact exec_push_completes hr d
    · exact ⟨_, rfl⟩
  | rd stopReq k =>
    rw [step_of_fetch_ok ha (fetch_rd s stopReq k)]
    split_ifs with hh hq he
    · exact ⟨_, rfl⟩
    · exact ⟨_, rfl⟩
    · exact ⟨_, rfl⟩
    · obtain ⟨_, t, -, ht, -⟩ := exec_consume_completes hs' (Bool.eq_false_of_not_eq_true he) k
      exact ⟨t, ht⟩
  | sync v k =>
    cases v with
    | head => exact ⟨_, (step_of_fetch_ok ha (fetch_sync_head s k)).trans (if_pos (of_decide_eq_true hc))⟩
    | tail => exact ⟨_, (step_of_fetch_ok ha (fetch_sync_tail s k)).trans (if_pos (of_decide_eq_true hc))⟩
  | rst r =>
    cases r with
    | false => exact ⟨_, step_of_fetch_ok ha (fetch_rst s false)⟩
    | true => exact ⟨_, step_of_fetch_error ha (fetch_rst s true)⟩
  | _ => cases hw

/-! ## The pulse and the trace -/

/-- A transition adds a frame to the trace exactly when it is CHK_OK (R206). -/
theorem runTransition_emits_iff {x : Transition} (h : runTransition x b s = .next t) :
    x = .chkOk ↔ ∃ f, t.framesOut = s.framesOut ++ [f] := by
  cases x with
  | payMore =>
    obtain ⟨-, rfl⟩ := storePayload_cases h
    simp
  | payLast =>
    obtain ⟨u, hu, rfl⟩ := execPayLast_cases h
    obtain ⟨-, rfl⟩ := storePayload_cases hu
    simp
  | chkOk =>
    obtain ⟨u, hu, rfl⟩ := execChkOk_cases (b := b) h
    obtain ⟨-, bs, -, rfl⟩ := emit_cases hu
    simp
  | _ =>
    cases h
    simp [recover]

/-- From a low pulse, a feed raises it exactly when it emits a frame (R202, R206). -/
theorem feed_frameValid_iff_emits (hs : s.frameValid = false) (h : feed b k s = .next t) :
    t.frameValid = true ↔ ∃ f, t.framesOut = s.framesOut ++ [f] := by
  rw [feed_eq_dispatch] at h
  have hlow : (beforeDispatch k s).frameValid = false := by
    unfold beforeDispatch
    split <;> exact hs
  rw [runTransition_frameValid h, hlow, runTransition_emits_iff h, (beforeDispatch_sameFrameOutput k s).framesOut]
  simp

/-! ## While halted -/

theorem fetch_ne_reset (hw : e.wired = true) (hne : e ≠ .rst false) : fetch s e ≠ .ok .reset := by
  cases e with
  | wr valid d =>
    rw [fetch_wr]
    split_ifs <;> simp
  | rd stopReq k =>
    rw [fetch_rd]
    split_ifs <;> simp
  | sync v k => cases v <;> exact nofun
  | rst r =>
    cases r with
    | false => exact absurd rfl hne
    | true => exact nofun
  | _ => cases hw

/-- `halted` is written by STOP alone, a reset aside, and STOP writes 1 (R204). -/
theorem exec_keeps_halted (hh : s.halted = true) (h : exec i s = .next t) (hreset : i ≠ .reset) : t.halted = true := by
  obtain ⟨-, -, -, -, hstop, -⟩ := Proofs.eachRegisterHasItsOneWriter i s t h hreset
  by_cases hsame : t.halted = s.halted
  · rw [hsame, hh]
  · obtain rfl := hstop hsame
    cases h
    rfl

theorem step_keeps_halted (ha : s.agenda = e :: rest) (hw : e.wired = true) (hne : e ≠ .rst false) (hh : s.halted = true)
    (h : step s = .next t) : t.halted = true := by
  cases hf : fetch s e with
  | ok i =>
    rw [step_of_fetch_ok ha hf] at h
    exact exec_keeps_halted (s := s.withAgenda rest) hh h fun hi => fetch_ne_reset hw hne (hf.trans (congrArg _ hi))
  | error r =>
    rw [step_of_fetch_error ha hf] at h
    cases r with
    | selectsNothing =>
      cases h
      exact hh
    | _ => cases h

/-- A push neither reads nor writes `halted` (R205). -/
theorem exec_push_withHalted (x : Bool) (b : Byte) (s : State) :
    exec (.push b) (s.withHalted x) = andThen (exec (.push b) s) fun u => .next (u.withHalted x) := by
  by_cases hfull : nextIndex s.cfg s.head = s.tailSeen
  · rw [exec_push_of_full hfull, exec_push_of_full (s := s.withHalted x) hfull]
    rfl
  · by_cases hh : s.head < s.cfg.fifoDepth
    · rw [exec_push_of_free hh hfull, exec_push_of_free (s := s.withHalted x) hh hfull]
      rfl
    · have hfree : wrFull s = false := by simpa [wrFull] using hfull
      simp only [exec, execPush, pushByte_of_outside hfree (Nat.not_lt.1 hh),
        pushByte_of_outside (s := s.withHalted x) hfree (Nat.not_lt.1 hh), andThen_fault]

end Sys2Proof.Machine

/-! PROOFS. The obligations on the top level of the block. -/

namespace Sys2Proof.Proofs

open Sys2Proof.Machine

/-- Settles O55: every move the hardware has completes, and by O54 the invariant is kept; with no move nothing changes. -/
theorem wiredBlockNeverStops : Obligations.WiredBlockNeverStops := by
  intro s hs hw hc
  have hnext : ∃ t, step s = .next t := by
    cases ha : s.agenda with
    | nil => exact ⟨s, step_of_no_move ha⟩
    | cons e rest => exact step_completes hs ha (by simpa [NextWired, ha] using hw) (by simpa [NextAllowed, ha] using hc)
  obtain ⟨t, ht⟩ := hnext
  exact ⟨t, ht, everyWiredStepKeepsTheInvariant s t hs hw ht⟩

/-- Settles O40: a pop and a feed, of which each register's value is the feed's or the pop's. -/
theorem consumePopsAndFeedsOneByte : Obligations.ConsumePopsAndFeedsOneByte := by
  intro s t hs he
  obtain ⟨v, u, hv, hexec, hfeed⟩ := exec_consume_completes hs he t
  have hout := feed_sameOutsideDecoder hfeed
  have hpulse := feed_frameValid_iff_emits rfl hfeed
  have hlast := feed_lastTs hfeed
  exact ⟨v, u, hv, hexec, hfeed, hpulse, hout.tail, hout.pops, hlast, execConsume_frame hexec⟩

/-- Settles O48: no move but a reset selects an operation that lowers `halted`, and while it is 1 no read edge selects CONSUME. -/
theorem haltedEndsConsumptionUntilReset : Obligations.HaltedEndsConsumptionUntilReset := by
  intro s u e rest ha hw hne hh h
  rcases step_sameConsumerSide_or_consumes ha hw hne h with hsame | ⟨-, hrunning, -⟩
  · exact ⟨step_keeps_halted ha hw hne hh h, hsame.tail, hsame.pops, hsame.st, hsame.len, hsame.widx, hsame.csum,
      hsame.scratch, hsame.lastTs, hsame.framesOut, hsame.frameLen, hsame.framePayload⟩
  · rw [hh] at hrunning
    cases hrunning

/-- Settles O57: the consumer sees an empty channel and its view is not behind, so the ring holds nothing, and by first in, first
out the accepted bytes are the popped ones. -/
theorem quiescentRunningBlockHasConsumedEverything : Obligations.QuiescentRunningBlockHasConsumedEverything := by
  rintro s ⟨⟨-, -, hfifo, -⟩, -⟩ ⟨-, hseen, -, hidle⟩ hrunning
  obtain ⟨he, -⟩ := hidle.resolve_right (by simp [hrunning])
  have hnil : contents s = [] := contents_of_empty (by rw [(rdEmpty_iff s).1 he, hseen])
  rw [FifoInv, hnil, List.append_nil] at hfifo
  exact ⟨(List.map_injective_iff.2 (Option.some_injective Byte) hfifo).symm, by
    rw [occupancy_eq_length_contents, hnil, List.length_nil]⟩

/-- Settles O7: by what each move's key decodes to. -/
theorem eachClockEdgeSelectsByPrecedence : Obligations.EachClockEdgeSelectsByPrecedence := by
  refine fun s rest => ⟨fun ha => step_of_fetch_ok ha (fetch_rst s false), fun stopReq t ha => ?_,
    fun valid b ha => step_of_fetch_ok ha (fetch_wr s valid b), fun stopReq t => ?_⟩
  · rw [step_of_fetch_ok ha (fetch_rd s stopReq t)]
    cases rdEmpty s <;> rfl
  · rw [fetch_rd]
    split_ifs with hh hq he
    · simp [byteValid, hh]
    · simp [byteValid, hq]
    · simp [byteValid, he]
    · simp [byteValid, hh, hq, he]

/-- Settles O41: the POP returns None, and there is no byte to feed. -/
theorem consumeOnEmptyFeedsNothing : Obligations.ConsumeOnEmptyFeedsNothing := by
  intro s t he
  simp only [exec, execConsume, popByte_none he]
  rfl

/-- Settles O43: the three operations write what they say, a read edge selects them in the order of their rows, and a push commutes
with a write of `halted`. -/
theorem idleStopAndHaltedEffects : Obligations.IdleStopAndHaltedEffects := by
  refine fun s => ⟨rfl, rfl, rfl, fun t hh he => ?_, fun t hh => ?_, fun stopReq t hh => ?_,
    fun x b => exec_push_withHalted x b s⟩
  · simp [fetch_rd, hh, he]
  · simp [fetch_rd, hh]
  · simp [fetch_rd, hh]

end Sys2Proof.Proofs

/-! SUPPORT. The channel between submission and consumption: what the consumer is shown, what submissions put there, and that
consuming it does to the decoder and its frames what feeding its bytes does (R80, R202, R210). -/

namespace Sys2Proof.Machine

variable {s t u s₀ : State} {b v : Byte} {k : Nat} {bytes : List Byte}

/-! ## What the consumer is shown -/

/-- The consumer sees the whole ring, and the ring holds exactly `bytes`, oldest first. -/
structure Shown (bytes : List Byte) (s : State) : Prop where
  ring : RingInv s
  seen : s.headSeen = s.head
  holds : contents s = bytes.map some

theorem Shown.rdEmpty (h : Shown [] s) : rdEmpty s = true := by
  have ⟨hh, ht, _⟩ := h.ring
  have hocc : occupancy s = 0 := by rw [occupancy_eq_length_contents, h.holds]; rfl
  rw [rdEmpty_iff, h.seen, (ringDist_eq_zero_iff ht hh).1 hocc]

/-- A byte shown is visible and has a value, and after its pop the others are shown (R183). -/
theorem Shown.pop (h : Shown (v :: bytes) s) :
    Machine.rdEmpty s = false ∧ s.tail < s.cfg.fifoDepth ∧ memRead s.fifoMem s.tail = some v ∧ Shown bytes (popped v s) := by
  obtain ⟨hr, hseen, hcont⟩ := h
  have ⟨_, ht, _⟩ := hr
  have hne : s.tail ≠ s.headSeen := by
    intro heq
    rw [contents_of_empty (by rw [heq, hseen])] at hcont
    cases hcont
  have hc := contents_pop hr hne
  rw [hcont, List.map_cons, List.cons.injEq] at hc
  obtain ⟨hv, hrest⟩ := hc
  exact ⟨by simpa [Machine.rdEmpty] using hne, ht, hv.symm,
    ringInv_pop hr (popByte_some (by simpa [Machine.rdEmpty] using hne) ht hv.symm), hseen, hrest.symm⟩

theorem Shown.of_sameOutsideDecoder (h : Shown bytes s) (hs : SameOutsideDecoder s t) : Shown bytes t :=
  ⟨hs.ringInv h.ring, by rw [hs.headSeen, hs.head, h.seen], by
    simpa only [contents, occupancy, hs.cfg, hs.fifoMem, hs.head, hs.tail] using h.holds⟩

/-! ## Submissions -/

theorem SameConsumerSide.trans (h : SameConsumerSide s t) (h' : SameConsumerSide t u) : SameConsumerSide s u :=
  ⟨h'.tail.trans h.tail, h'.pops.trans h.pops, h'.st.trans h.st, h'.len.trans h.len, h'.widx.trans h.widx,
    h'.csum.trans h.csum, h'.scratch.trans h.scratch, h'.lastTs.trans h.lastTs, h'.framesOut.trans h.framesOut,
    h'.frameLen.trans h.frameLen, h'.framePayload.trans h.framePayload⟩

/-- Pushes leave the consumer side (R49). -/
theorem execAll_push_sameConsumerSide (h : execAll (bytes.map .push) s = .next t) : SameConsumerSide s t := by
  induction bytes generalizing s with
  | nil =>
    cases h
    exact {}
  | cons v bytes ih =>
    obtain ⟨u, hu, hrest⟩ := andThen_eq_next.1 h
    have hpush : SameConsumerSide s u := by
      rcases pushByte_cases hu with ⟨-, rfl⟩ | ⟨-, -, rfl⟩ <;> exact {}
    exact hpush.trans (ih hrest)

/-- Bytes that fit an empty channel are accepted, and shown to the consumer by the synchroniser's step of the whole distance
(R181, R185). -/
theorem execAll_push_syncHead (hr : RingInv s) (hempty : s.head = s.tail) (htailSeen : s.tailSeen = s.tail)
    (hfit : bytes.length < s.cfg.fifoDepth) :
    ∃ t, execAll (bytes.map .push ++ [.syncHead bytes.length]) s = .next t ∧ Shown bytes t ∧ SameConsumerSide s t ∧
      t.cfg = s.cfg ∧ t.submissions = s.submissions ++ bytes.map (⟨·, .accepted⟩) := by
  have ⟨hh, _⟩ := hr
  have hview : s.headSeen = s.head := headSeen_eq_head_of_empty hr hempty
  obtain ⟨u, hpush, hru, hcont, hhead, hcfg, -, hheadSeen, -, -, hsub⟩ := execAll_push (bytes := bytes) hr (by
    rwa [htailSeen, ← hempty, ringDist_self, Nat.zero_add])
  have ⟨hhu, _, hhsu, _⟩ := hru
  have hdist : ringDist u.cfg u.headSeen u.head = bytes.length := by
    rw [hcfg, hheadSeen, hview, hhead, ringDist_forward_right hh hh (by rwa [ringDist_self, Nat.zero_add]), ringDist_self,
      Nat.zero_add]
  have hsync : exec (.syncHead bytes.length) u = .next (u.withHeadSeen u.head) := hdist ▸ execSyncHead_whole hhu hhsu
  have hholds : contents u = bytes.map some := by rw [hcont, contents_of_empty hempty, List.nil_append]
  refine ⟨u.withHeadSeen u.head, ?_, ⟨ringInv_syncHead hru hsync, rfl, hholds⟩,
    (execAll_push_sameConsumerSide hpush).trans {}, hcfg, hsub⟩
  rw [execAll_append, hpush, andThen_next, execAll_cons_of_next hsync, execAll]

/-! ## The decoder and its frames within another top level -/

/-- The state `o` with the decoder, the trace and the last frame of `u`, in the build of `u`. -/
def State.withDecodingOf (o u : State) : State :=
  { o.withDecoderOf u with framesOut := u.framesOut, frameLen := u.frameLen, framePayload := u.framePayload }

theorem framesOut_of_withDecodingOf (h : t.withDecodingOf u = t) : t.framesOut = u.framesOut := by
  rw [← h]
  rfl

theorem besideDecoder_withDecodingOf (o : State) : BesideDecoder o.withDecodingOf := {}

theorem besideDecoder_withFrameValid (x : Bool) : BesideDecoder (State.withFrameValid · x) := {}

/-- A feed that emits a frame does not depend on the pulse before it: EMIT writes it (R206). -/
theorem feed_withFrameValid_of_chkOk (hsel : selected (beforeDispatch k s) b = .chkOk) (x : Bool) :
    feed b k (s.withFrameValid x) = feed b k s := by
  have hf := besideDecoder_withFrameValid x
  rw [feed_eq_dispatch, feed_eq_dispatch, hf.beforeDispatch_comm, dispatch, dispatch, hf.selected_eq, hsel]
  rfl

/-- A feed on a state that has the decoder and the frames of `s₀` gives them what it gives those of `s₀` (R170). -/
theorem feed_of_sameDecoding (hdec : s.withDecodingOf s₀ = s) (h : feed b k s₀ = .next u) :
    ∃ t, feed b k s = .next t ∧ t.withDecodingOf u = t := by
  by_cases hsel : selected (beforeDispatch k s₀) b = .chkOk
  · have hf := besideDecoder_withDecodingOf (s.withFrameValid true)
    have hfeed := hf.feed_comm (s := s₀) (b := b) (k := k) fun _ _ _ _ _ => rfl
    have hsel' : selected (beforeDispatch k ((s.withFrameValid true).withDecodingOf s₀)) b = .chkOk := by
      rw [hf.beforeDispatch_comm, hf.selected_eq, hsel]
    rw [← feed_withFrameValid_of_chkOk hsel' s.frameValid, h, andThen_next] at hfeed
    exact ⟨_, (congrArg (feed b k) hdec.symm).trans hfeed, rfl⟩
  · have hfeed := (besideDecoder_withDecodingOf s).feed_comm fun hx => absurd hx hsel
    rw [hdec, h, andThen_next] at hfeed
    exact ⟨_, hfeed, rfl⟩

/-! ## Consumption -/

/-- CONSUME takes the oldest byte shown, and does to the decoder and its frames what the feed of that byte does (R202). -/
theorem Shown.consume (h : Shown (b :: bytes) s) (hdec : s.withDecodingOf s₀ = s) (hfeed : feed b k s₀ = .next u) :
    ∃ t, exec (.consume k) s = .next t ∧ t.withDecodingOf u = t ∧ Shown bytes t ∧ t.submissions = s.submissions ∧
      (t.frameValid = true ↔ ∃ f, t.framesOut = s.framesOut ++ [f]) := by
  obtain ⟨he, ht, hv, hrest⟩ := h.pop
  have hpopped : ((popped b s).withFrameValid false).withDecodingOf s₀ = (popped b s).withFrameValid false := by
    rw [← hdec]
    rfl
  obtain ⟨t, hfeed', hdec'⟩ := feed_of_sameDecoding hpopped hfeed
  have hout := feed_sameOutsideDecoder hfeed'
  have hlow : Shown bytes ((popped b s).withFrameValid false) := ⟨hrest.ring, hrest.seen, hrest.holds⟩
  have hpulse := feed_frameValid_iff_emits rfl hfeed'
  exact ⟨t, (exec_consume_of_visible he ht hv).trans hfeed', hdec', hlow.of_sameOutsideDecoder hout, hout.submissions, hpulse⟩

/-- Consuming bytes shown, each at its time, is feeding them (R210). -/
theorem Shown.consumeAll {l : List (Byte × Nat)} (h : Shown (l.map Prod.fst ++ bytes) s) (hdec : s.withDecodingOf s₀ = s)
    (hfeeds : feeds l s₀ = .next u) :
    ∃ t, execAll (l.map (.consume ·.2)) s = .next t ∧ t.withDecodingOf u = t ∧ Shown bytes t ∧
      t.submissions = s.submissions := by
  induction l generalizing s s₀ with
  | nil =>
    cases hfeeds
    exact ⟨s, rfl, hdec, h, rfl⟩
  | cons x l ih =>
    obtain ⟨u₁, hfeed, hrest⟩ := andThen_eq_next.1 hfeeds
    obtain ⟨t₁, hexec, hdec₁, hshown, hsub₁, -⟩ := h.consume hdec hfeed
    obtain ⟨t, hall, hdec', hshown', hsub⟩ := ih hshown hdec₁ hrest
    exact ⟨t, (execAll_cons_of_next hexec).trans hall, hdec', hshown', hsub.trans hsub₁⟩

/-- Consuming bytes whose last alone completes a frame emits that frame, with the pulse (R209). -/
theorem Shown.consumeFrame {l : List (Byte × Nat)} {f : Frame} (h : Shown (l.map Prod.fst) s) (hfeeds : feeds l s = .next u)
    (hframe : u.framesOut = s.framesOut ++ [f])
    (hbefore : ∀ n < l.length, ∃ v, feeds (l.take n) s = .next v ∧ v.framesOut = s.framesOut) :
    ∃ t, execAll (l.map (.consume ·.2)) s = .next t ∧ t.withDecodingOf u = t ∧ Shown [] t ∧
      t.submissions = s.submissions ∧ t.frameValid = true := by
  cases l using List.reverseRecOn with
  | nil =>
    cases hfeeds
    simp at hframe
  | append_singleton init x =>
    obtain ⟨v, hinit, hnone⟩ := hbefore init.length (by simp)
    rw [List.take_left] at hinit
    rw [feeds_append, hinit, andThen_next] at hfeeds
    obtain ⟨u', hlast, hu⟩ := andThen_eq_next.1 hfeeds
    cases hu
    rw [List.map_append] at h
    obtain ⟨t₁, hall, hdec₁, hshown₁, hsub₁⟩ := h.consumeAll rfl hinit
    obtain ⟨t, hexec, hdec, hshown, hsub, hpulse⟩ := hshown₁.consume hdec₁ hlast
    refine ⟨t, ?_, hdec, hshown, hsub.trans hsub₁, hpulse.2 ⟨f, ?_⟩⟩
    · rw [List.map_append, execAll_append, hall, andThen_next]
      exact execAll_cons_of_next hexec
    · rw [framesOut_of_withDecodingOf hdec, framesOut_of_withDecodingOf hdec₁, hnone, hframe]

end Sys2Proof.Machine

/-! PROOFS. The obligation on a frame from its submission to its output. -/

namespace Sys2Proof.Proofs

open Sys2Proof.Machine

/-- Settles O42: the submissions show the frame to the consumer, and consuming it is feeding it, which by O38 emits it at the last
byte and not before. -/
theorem submittedFrameIsEmittedEndToEnd : Obligations.SubmittedFrameIsEmittedEndToEnd := by
  intro p l payload times hok hlen hfit htimes hgap
  have ⟨_, _, hd, _⟩ := hok
  have hsize := length_wireFrame payload (checksumOf payload.length payload)
  have hroom : (wireFrame payload (checksumOf payload.length payload)).length < p.fifoDepth := by omega
  obtain ⟨s, hsubmit, hshown, hsame, hcfg, hsub⟩ :=
    execAll_push_syncHead (s := State.resetWith p l) (ringInv_resetWith p l hd) rfl rfl hroom
  obtain rfl : s.cfg = p := hcfg
  obtain ⟨⟨u, hfeeds, hframes, hframe, hst, -⟩, hbefore⟩ :=
    validFrameIsDecodedExactlyOnce s payload times hok hlen htimes hgap (.inl hsame.st)
  have hbytes := List.map_fst_zip (hsize.trans htimes.symm).le
  have hmoves := (congrArg (List.map Instr.consume) (List.map_snd_zip (hsize.trans htimes.symm).ge)).symm.trans List.map_map
  rw [← hbytes] at hshown
  obtain ⟨t, hconsume, hdec, hempty, hsub', hpulse⟩ := hshown.consumeFrame hfeeds hframes fun n hn =>
    hbefore n (by rw [List.length_zip] at hn; omega)
  refine ⟨t, ?_, ?_, ?_, hpulse, ?_, hempty.rdEmpty, ?_⟩
  · rw [← hsize, execAll_append, hsubmit, andThen_next, hmoves]
    exact hconsume
  · rw [framesOut_of_withDecodingOf hdec, hframes, hsame.framesOut]
    rfl
  · rw [← hdec]
    exact hframe
  · rw [← hdec]
    exact hst
  · rw [hsub', hsub]
    rfl

end Sys2Proof.Proofs

/-! SUPPORT. The clear of a decoder whose length, index and checksum are clear already (R37, R151). -/

namespace Sys2Proof.Machine

variable {s : State}

/-- While the preamble or the length byte is awaited only the parse state is left to clear. -/
theorem decoderClear_eq_withSt (hd : DecoderInv s) (hst : s.st = .waitSync1 ∨ s.st = .waitSync2 ∨ s.st = .readLength) :
    decoderClear s = s.withSt .waitSync1 := by
  obtain ⟨hlen, hwidx, hsum⟩ := hd.1 hst
  exact decoderClear_of_cleared (s := s.withSt .waitSync1) rfl hlen hwidx hsum

end Sys2Proof.Machine

/-! PROOFS. The obligation on the error conditions of the decoder. -/

namespace Sys2Proof.Proofs

open Sys2Proof.Machine

/-- Settles O32: three conditions are the clear itself; SyncLost writes at most the parse state, and by the invariant the rest of
the decoder is clear while the preamble is awaited. -/
theorem everyDecoderConditionIsOnlyTheClear : Obligations.EveryDecoderConditionIsOnlyTheClear := by
  refine fun s b hd => ⟨fun hst => ?_, fun hst => ?_, rfl, rfl, rfl⟩
  · rw [decoderClear_eq_withSt hd (.inl hst), withSt_of_eq hst]
    rfl
  · rw [decoderClear_eq_withSt hd (.inr (.inl hst))]
    rfl

end Sys2Proof.Proofs

/-! PROOFS. The obligation on the first byte after reset. -/

namespace Sys2Proof.Proofs

open Sys2Proof.Machine

/-- Settles O46: after reset the indices and views are all 0, and a ring of at least two slots is not full there, so the push
is accepted, writes slot 0 and puts `head` one place ahead of `tail`. -/
theorem afterResetTheFirstByteIsAcceptedAtSlotZero : Obligations.AfterResetTheFirstByteIsAcceptedAtSlotZero := by
  rintro p l b ⟨-, -, hdepth, -⟩
  have hslot : 0 < p.fifoDepth := by omega
  have hone : ringDist p 0 0 + 1 < p.fifoDepth := by rw [ringDist_self]; omega
  have hfree : nextIndex p 0 ≠ 0 := by rw [nextIndex_eq hslot]; split_ifs <;> omega
  have hocc : ringDist p 0 (nextIndex p 0) = 1 :=
    (ringDist_forward_right hslot hslot hone).trans (congrArg (· + 1) (ringDist_self 0))
  exact ⟨decide_eq_false hfree, rfl, rfl, rfl, pushed b (State.resetWith p l), exec_push_of_free hslot hfree, rfl,
    memRead_memWrite_same _ _ _, congrArg (· % p.fifoDepth) (Nat.zero_add 1), hocc⟩

end Sys2Proof.Proofs
